-- ==== Sys2Proof/Word.lean ====
section
/-! DEFINITION. The word types of B32CODEC: registers are 32 bits wide (00_scope.md R6), the
buffers hold octets (R8), the port carries block-relative offsets of 18 bits (20_memory.md R60). -/

namespace Sys2Proof

/-- An octet: an 8-bit unsigned value (00_scope.md R8). -/
abbrev Byte := BitVec 8

/-- A register or a command word: 32 bits (00_scope.md R6, 30_encoding.md R90). -/
abbrev Word := BitVec 32

/-- A block-relative byte offset: 18 bits, 0x00000 to 0x3FFFF (20_memory.md R60). -/
abbrev Offset := BitVec 18

/-- `ceil(a / b)`, meaning `(a + b - 1) div b` (00_scope.md R8). -/
def ceilDiv (a b : Nat) : Nat := (a + b - 1) / b

end Sys2Proof
end

