-- ==== Sys2Proof/Config.lean ====
section
/-! DEFINITION. What an implementation fixes (the OPEN parameters of 00_scope.md R6) and the free octets:
the values the spec leaves unspecified. LATENCY has no field: "a model represents it only by the
freedom of the engine transition to occur at any point after the start" (70_reset_and_hazards.md R262),
which is the place of the engine slot at the port (log 6). -/

namespace Sys2Proof

/-- BUS_PROTOCOL: the physical bus that carries the transactions of 20_memory.md R60 (00_scope.md R6:
"for example APB or AXI4-Lite"). No rule depends on it. -/
inductive Config.BusProtocol where
  | apb
  | axi4Lite
  /-- Any other bus, by its name. -/
  | other (name : String)
  deriving DecidableEq, Repr

/-- Polarity of the reset input (00_scope.md R6). -/
inductive Config.Polarity where
  | activeHigh
  | activeLow
  deriving DecidableEq, Repr

/-- Synchronicity of the reset input (00_scope.md R6). -/
inductive Config.Synchronicity where
  | synchronous
  | asynchronous
  deriving DecidableEq, Repr

/-- RESET_KIND: polarity and synchronicity of the reset input (00_scope.md R6). No rule depends on it
beyond 70_reset_and_hazards.md R250, which speaks of the input asserted and released. -/
structure Config.ResetKind where
  polarity : Config.Polarity
  synchronicity : Config.Synchronicity
  deriving DecidableEq, Repr

/-- The OPEN parameters of 00_scope.md R6. A State carries them in its field
`cfg`, which no step changes, so a claim over all states is a claim over all configurations (log 9).
Their constraints are `Config.Params.wf` in WellFormed.lean. -/
structure Config.Params where
  /-- IN_BUF_SIZE: capacity of IN_BUF in octets, the largest legal IN_LEN. -/
  inBufSize : Nat
  /-- OUT_BUF_SIZE: capacity of OUT_BUF in octets. -/
  outBufSize : Nat
  /-- BASE: system address of block offset 0. -/
  base : Nat
  /-- BUS_PROTOCOL: the physical bus. -/
  busProtocol : Config.BusProtocol
  /-- RESET_KIND: polarity and synchronicity of the reset input. -/
  resetKind : Config.ResetKind
  deriving DecidableEq, Repr

/-- The reference configuration of 00_scope.md R6: 1280 and 2048 octets. R6 gives no reference value for
the other parameters; BASE 0 (log 9), APB and a synchronous active-high reset (log 19) are a DESIGN
CHOICE. -/
def Config.reference : Config.Params where
  inBufSize := 1280
  outBufSize := 2048
  base := 0
  busProtocol := .apb
  resetKind := { polarity := .activeHigh, synchronicity := .synchronous }

/-- FREE VALUE (no body: nothing can be proved about what it answers). The octet that draw number `k`
gives at block offset `a`. The spec calls such octets unspecified, "a model draws each octet"
(70_reset_and_hazards.md R251; 20_memory.md R68; 60_exceptions.md R222; log 1, log 3, log 4). -/
opaque Config.freeOctet (k a : Nat) : Byte

end Sys2Proof
end

