-- ==== Sys2Proof/Syntax.lean ====
section
/-! DEFINITION. The command alphabet: the five command words (30_encoding.md R90), the raw fields of
a command word, the host transactions of 20_memory.md R60 and the events of the outside world. -/

namespace Sys2Proof

/-- The five legal commands, one constructor per row of opcode_table.json (30_encoding.md R90). A
command word has no operand field (R92): `h` is part of the mnemonic. -/
inductive Instr where
  /-- NOP, word 0x00000000 (43_control.md R207). -/
  | nop
  /-- ENCODE.STD, word 0x00000001 (41_encode.md R136). -/
  | encodeStd
  /-- ENCODE.HEX, word 0x00000011 (41_encode.md R136). -/
  | encodeHex
  /-- DECODE.STD, word 0x00000002 (42_decode.md R172). -/
  | decodeStd
  /-- DECODE.HEX, word 0x00000012 (42_decode.md R172). -/
  | decodeHex
  deriving DecidableEq, Repr

/-- The three fields of the one command format (30_encoding.md R90): RSV bits 31:5, H bit 4,
OP bits 3:0. Any 32-bit word has these fields; which of them are legal is `CommandFields.wf`. -/
structure CommandFields where
  rsv : BitVec 27
  h : Bool
  op : BitVec 4
  deriving DecidableEq, Repr

/-- Access sizes of a transaction: 1, 2 or 4 octets (20_memory.md R60). -/
inductive Size where
  | one
  | two
  | four
  deriving DecidableEq, Repr

/-- The number of octets of a size. -/
def Size.octets : Size → Nat
  | .one => 1
  | .two => 2
  | .four => 4

/-- Direction of a transaction, with the write data of a write (20_memory.md R60). `wdata` has
`8 * s` bits on the port; it is held here in 32, and the bits above `8 * s` are never looked at (log 12). -/
inductive Access where
  | read
  | write (wdata : Word)
  deriving DecidableEq, Repr

/-- A host transaction `(a, s, dir, wdata)` (20_memory.md R60). -/
structure Txn where
  addr : Offset
  size : Size
  access : Access
  deriving DecidableEq, Repr

/-- One thing the outside world does, or one point at which the engine gets its turn. The list of
them in State says which agent moves next (20_memory.md R80, 43_control.md R205; log 6). -/
inductive Event where
  /-- The host performs a transaction. -/
  | txn (t : Txn)
  /-- A point between two transactions at which the pending engine transition, if any, occurs. -/
  | engineSlot
  /-- The reset input is asserted (70_reset_and_hazards.md R250). -/
  | resetAssert
  /-- The reset input is released (70_reset_and_hazards.md R250). -/
  | resetRelease
  deriving DecidableEq, Repr

end Sys2Proof
end

