-- ==== Sys2Proof/WellFormed.lean ====
section
/-! DEFINITION. Well-formedness of what comes from outside: the parameters (00_scope.md R6), the
fields of a command word (30_encoding.md R90, R93, R94), a transaction's write data (20_memory.md R60). -/

namespace Sys2Proof

/-- The constraints of 00_scope.md R6 on the OPEN parameters. It puts none on BUS_PROTOCOL and RESET_KIND. -/
def Config.Params.wf (p : Config.Params) : Bool :=
  decide (1 ≤ p.inBufSize) && decide (p.inBufSize ≤ 40960) &&
  decide (8 * ceilDiv p.inBufSize 5 ≤ p.outBufSize) && decide (p.outBufSize ≤ 65536) &&
  decide (p.base % 0x40000 = 0)

/-- The fields of a legal command word (30_encoding.md R94): RSV is 0, OP is not reserved, and H is 0
when OP is NOP's. -/
def CommandFields.wf (c : CommandFields) : Bool :=
  decide (c.rsv = 0) && decide (c.op ≤ 2) && !(decide (c.op = 0) && c.h)

/-- Every command is well-formed: a command word has no immediate, register or address field
(30_encoding.md R92), so a constructor of `Instr` carries nothing that could be wrong. -/
def Instr.wf : Instr → Bool
  | .nop => true
  | .encodeStd => true
  | .encodeHex => true
  | .decodeStd => true
  | .decodeHex => true

/-- A transaction whose write data fits `8 * s` bits (20_memory.md R60). Alignment and capacity are no
matter of form: the block answers BUSERR to them (60_exceptions.md R226). -/
def Txn.wf (t : Txn) : Bool :=
  match t.access with
  | .read => true
  | .write v => decide (v.toNat < 2 ^ (8 * t.size.octets))

end Sys2Proof
end

