-- ==== Sys2Proof/Decode.lean ====
section
/-! DEFINITION. The command word decoder, total on every 32-bit word (30_encoding.md R96), the encoder
written from the table of R90, and the host's entry `decodeTableWord`. -/

namespace Sys2Proof

/-- Why a word is ILLEGAL (30_encoding.md R94 lists the three kinds). The spec has one ILLEGAL; the
names serve the reader only (log 18). -/
inductive Illegal where
  /-- RSV, bits 31:5, is not 0. -/
  | reservedBits
  /-- OP is one of 0x3 to 0xF. -/
  | reservedOp
  /-- OP is NOP's and H is 1: the word 0x00000010. -/
  | nopWithH
  deriving DecidableEq, Repr

/-- The result of `decode_cmd` (30_encoding.md R96). -/
inductive Decoded where
  | command (i : Instr)
  | illegal (why : Illegal)
  deriving DecidableEq, Repr

/-- The fields of a word: RSV bits 31:5, H bit 4, OP bits 3:0 (30_encoding.md R90). -/
def fieldsOfWord (w : Word) : CommandFields where
  rsv := w.extractLsb' 5 27
  h := w.getLsbD 4
  op := w.extractLsb' 0 4

/-- The word with the given fields (30_encoding.md R90). -/
def wordOfFields (c : CommandFields) : Word := c.rsv ++ BitVec.ofBool c.h ++ c.op

/-- `decode_cmd` of 30_encoding.md R96. -/
def decode (w : Word) : Decoded :=
  let c := fieldsOfWord w
  if c.rsv ≠ 0 then .illegal .reservedBits
  else if c.op = 0x0 then (if c.h then .illegal .nopWithH else .command .nop)
  else if c.op = 0x1 then (if c.h then .command .encodeHex else .command .encodeStd)
  else if c.op = 0x2 then (if c.h then .command .decodeHex else .command .decodeStd)
  else .illegal .reservedOp

/-- The field values of each command, row by row from the second table of 30_encoding.md R90. -/
def fieldsOfInstr : Instr → CommandFields
  | .nop => { rsv := 0, h := false, op := 0x0 }
  | .encodeStd => { rsv := 0, h := false, op := 0x1 }
  | .encodeHex => { rsv := 0, h := true, op := 0x1 }
  | .decodeStd => { rsv := 0, h := false, op := 0x2 }
  | .decodeHex => { rsv := 0, h := true, op := 0x2 }

/-- The command word of a command (30_encoding.md R90). -/
def encode (i : Instr) : Word := wordOfFields (fieldsOfInstr i)

/-- The instruction the decoder reads from a table word. A command word is ONE 32-bit register write
(30_encoding.md R95), so there is no byte order to lay out; bits above `nbits` are 0, and a word
longer than 32 bits is no command word (log 17). -/
def decodeTableWord (nbits w : Nat) : Option Instr :=
  if 32 < nbits then none
  else
    match decode (BitVec.ofNat 32 (w % 2 ^ nbits)) with
    | .command i => some i
    | .illegal _ => none

end Sys2Proof
end

