-- ==== Sys2Proof/Machine/State.lean ====
section
/-! DEFINITION. The state of B32CODEC as plain data: every piece of state of 10_state.md (R20 to R42),
the two buffers of 20_memory.md (R62, R63), the engine elements (R40), the reset input
(70_reset_and_hazards.md R250), the port (20_memory.md R60), and two counters of the model's own that
number the draws of unspecified octets (log 2). -/

namespace Sys2Proof.Machine

/-- The two alphabets (40_alphabet.md R111): `std` is `h = 0`, `hex` is `h = 1` (30_encoding.md R91). -/
inductive Alphabet where
  | std
  | hex
  deriving DecidableEq, Repr

/-- The result codes of STATUS.ERR (60_exceptions.md R220). Codes 5 to 7 are never produced. -/
inductive ErrCode where
  | none
  | invalidChar
  | invalidUtf8
  | badCmd
  | badLen
  deriving DecidableEq, Repr

/-- `e.op` (10_state.md R40): 1 = ENCODE, 2 = DECODE. -/
inductive EngineOp where
  | encode
  | decode
  deriving DecidableEq, Repr

/-- The states of the UTF-8 checker `e.u8` (42_decode.md R170): `acc` between sequences; `ck` means k
continuation octets still needed; the others: the next octet has that lead octet's narrowed range. -/
inductive U8State where
  | acc
  | c1
  | c2
  | c3
  | e0
  | ed
  | f0
  | f4
  deriving DecidableEq, Repr

/-- The engine elements of 10_state.md R40. The counts and indexes are naturals bounded by the
invariant `Inv` (R40: "a model may hold each as a bounded natural"; log 14). -/
structure Engine where
  /-- `e.op` -/
  op : EngineOp
  /-- `e.h` -/
  h : Alphabet
  /-- `e.n`: input length latched at the start. -/
  n : Nat
  /-- `e.rd`: index of the next input octet. -/
  rd : Nat
  /-- `e.wr`: index of the next output octet. -/
  wr : Nat
  /-- `e.acc`: bit accumulator, its low `nb` bits are meaningful. -/
  acc : BitVec 12
  /-- `e.nb`: number of bits held, 0 to 12. -/
  nb : Nat
  /-- `e.symcnt`: octets emitted modulo 8. -/
  symcnt : BitVec 3
  /-- `e.pad_seen` -/
  padSeen : Bool
  /-- `e.u8` -/
  u8 : U8State
  /-- `e.u8_bad` -/
  u8Bad : Bool
  deriving DecidableEq, Repr

/-- The engine elements at reset. The spec leaves them unspecified and unobservable
(70_reset_and_hazards.md R250); zero, ENCODE and ACC are a DESIGN CHOICE (log 10). -/
def Engine.atReset : Engine where
  op := .encode
  h := .std
  n := 0
  rd := 0
  wr := 0
  acc := 0
  nb := 0
  symcnt := 0
  padSeen := false
  u8 := .acc
  u8Bad := false

/-- The response of the port to a transaction (20_memory.md R60). `rdata` has `8 * s` bits; it is held
zero-extended to 32 (log 12). -/
inductive Response where
  /-- OK to a write. -/
  | ok
  /-- OK to a read, with its data. -/
  | data (rdata : Word)
  /-- BUSERR (60_exceptions.md R226): no data, no other effect. -/
  | busErr
  deriving DecidableEq, Repr

/-- The buffers as (block offset, octet) pairs: IN_BUF index i at 0x10000 + i, OUT_BUF index i at
0x20000 + i (20_memory.md R61). Offsets rise strictly; an offset not listed has no written octet. -/
abbrev Memory := List Host.Cell

/-- The reasons the machine would stop with a fault: there are none. The block takes no traps
(60_exceptions.md R231); a bad access gets the response BUSERR (R226) and a command's error is a code
in STATUS (R220), and both are next states. -/
inductive Fault : Type
  deriving DecidableEq, Repr

/-- The reasons a step is refused. -/
inductive Refusal where
  /-- Raised by an arm of `exec` for an instruction that has no meaning yet. No arm raises it. Safe. -/
  | notModelled (mnemonic : String)
  /-- Raised by `step` for a host transaction while the reset input is asserted: "a platform must not
  issue any" (70_reset_and_hazards.md R250), "a model has no move for it" (93_implementation_defined.md).
  Raised by no instruction. Safe. -/
  | transactionDuringReset
  deriving DecidableEq, Repr

/-- The machine state. -/
structure State where
  /-- The OPEN parameters; INCAP and OUTCAP read them (10_state.md R32, R33). Never changed. -/
  cfg : Config.Params
  /-- CTRL.IE (10_state.md R23). -/
  ie : Bool
  /-- STATUS.BUSY (10_state.md R25). -/
  busy : Bool
  /-- STATUS.DONE (10_state.md R26). -/
  done : Bool
  /-- STATUS.ERR (10_state.md R27). -/
  err : ErrCode
  /-- STATUS.ERRCHAR (10_state.md R28). -/
  errChar : Byte
  /-- IN_LEN (10_state.md R30). -/
  inLen : Word
  /-- OUT_LEN (10_state.md R31). -/
  outLen : Word
  /-- IN_BUF and OUT_BUF (20_memory.md R62, R63). -/
  mem : Memory
  /-- The engine elements (10_state.md R40). -/
  eng : Engine
  /-- The reset input is asserted (70_reset_and_hazards.md R250). -/
  resetAsserted : Bool
  /-- The response to the latest transaction, none since reset (20_memory.md R60; log 13). -/
  resp : Option Response
  /-- What happens next, oldest first (20_memory.md R80; log 6). -/
  port : List Event
  /-- The model's own: the draw that unwritten octets belong to (70_reset_and_hazards.md R251; log 2). -/
  epoch : Nat
  /-- The model's own: the number of the next draw of free octets (log 2). -/
  draws : Nat
  deriving DecidableEq, Repr

/-- The state right after reset in the configuration `p` (70_reset_and_hazards.md R250, R251): nothing
waits at the port, no response has been given, and the buffers list nothing. -/
def State.resetIn (p : Config.Params) : State where
  cfg := p
  ie := false
  busy := false
  done := false
  err := .none
  errChar := 0
  inLen := 0
  outLen := 0
  mem := []
  eng := Engine.atReset
  resetAsserted := false
  resp := none
  port := []
  epoch := 0
  draws := 1

/-- The machine right after reset, in the reference configuration of 00_scope.md R6 (log 9). -/
def State.reset : State := State.resetIn Config.reference

end Sys2Proof.Machine
end

