-- ==== Sys2Proof/Machine/Ops.lean ====
section
/-! DEFINITION. The named operations over the buffers and the registers: memory, starting and
completing a command (the block's counterpart of taking an exception and of its return: 43_control.md
R202, R206, 60_exceptions.md R231), reset, and the unspecified octets. -/

namespace Sys2Proof.Machine

/-! ## Address map (20_memory.md R61) -/

/-- Block offset of IN_BUF index `i`: 0x10000 + i. -/
def inAddr (i : Nat) : Nat := 0x10000 + i

/-- Block offset of OUT_BUF index `i`: 0x20000 + i. -/
def outAddr (i : Nat) : Nat := 0x20000 + i

/-- The offsets at which a buffer octet exists: i < IN_BUF_SIZE in the IN window, i < OUT_BUF_SIZE in
the OUT window (20_memory.md R61). -/
def holdsOctet (p : Config.Params) (a : Nat) : Bool :=
  (decide (0x10000 ≤ a) && decide (a < 0x10000 + p.inBufSize)) ||
  (decide (0x20000 ≤ a) && decide (a < 0x20000 + p.outBufSize))

/-! ## Memory -/

/-- The canonical form: offsets strictly rising. An offset that is not listed has no written octet
(`Memory.read?` answers `none`), so no entry can equal what an unlisted offset reads as (log 5). -/
def Memory.wf : Memory → Bool
  | [] => true
  | [_] => true
  | (a, _) :: (b, y) :: rest => decide (a < b) && Memory.wf ((b, y) :: rest)

/-- The written octet at an offset, if there is one. -/
def Memory.read? : Memory → Nat → Option Byte
  | [], _ => none
  | (k, x) :: rest, a => if k = a then some x else Memory.read? rest a

/-- Write one octet, keeping the canonical form. -/
def Memory.write : Memory → Nat → Byte → Memory
  | [], a, x => [(a, x)]
  | (k, y) :: rest, a, x =>
    if a < k then (a, x) :: (k, y) :: rest
    else if a = k then (a, x) :: rest
    else (k, y) :: Memory.write rest a x

/-- Write the octets `f a`, ..., `f (a + n - 1)` at the offsets `a` to `a + n - 1`, lowest first. -/
def Memory.writeRange (f : Nat → Byte) (a : Nat) : Nat → Memory → Memory
  | 0, m => m
  | n + 1, m => Memory.write (Memory.writeRange f a n m) (a + n) (f (a + n))

/-- What an offset reads as when nothing has been written there since reset: a free octet of the
current epoch, the same at every read of it (70_reset_and_hazards.md R251; log 1). -/
def State.unwrittenOctet (s : State) (a : Nat) : Byte := Config.freeOctet s.epoch a

/-- The octet a buffer holds at a block offset: the model's read of one byte. -/
def State.octetAt (s : State) (a : Nat) : Byte := (Memory.read? s.mem a).getD (s.unwrittenOctet a)

/-- IN_BUF[i] (20_memory.md R62). -/
def State.inOctet (s : State) (i : Nat) : Byte := s.octetAt (inAddr i)

/-- OUT_BUF[i] (20_memory.md R63). -/
def State.outOctet (s : State) (i : Nat) : Byte := s.octetAt (outAddr i)

/-- `MemRead(IN, a, n)` (00_scope.md R10). -/
def State.memReadIn (s : State) (a n : Nat) : List Byte := (List.range n).map fun k => s.inOctet (a + k)

/-- `MemRead(OUT, a, n)`: the sequence view of OUT_BUF (20_memory.md R64). -/
def State.memReadOut (s : State) (a n : Nat) : List Byte := (List.range n).map fun k => s.outOctet (a + k)

/-- `MemWrite(OUT, a, 1, v)` (00_scope.md R10); the engine writes one octet at a time (20_memory.md R70). -/
def State.memWriteOut (s : State) (a : Nat) (v : Byte) : State :=
  { s with mem := Memory.write s.mem (outAddr a) v }

/-! ## Byte order of buffer accesses (20_memory.md R67) -/

/-- `sum over k of (octets[k] << (8 * k))`: little-endian. -/
def wordOfOctets : List Byte → Word
  | [] => 0
  | x :: rest => x.setWidth 32 ||| (wordOfOctets rest <<< 8)

/-- `wdata[8k+7:8k]`. -/
def octetOfWord (v : Word) (k : Nat) : Byte := v.extractLsb' (8 * k) 8

/-- A host read of `n` octets from the block offset `a`. -/
def State.readOctets (s : State) (a n : Nat) : Word :=
  wordOfOctets ((List.range n).map fun k => s.octetAt (a + k))

/-- A host write of the low `n` octets of `v` to the block offset `a`. -/
def State.writeOctets (s : State) (a n : Nat) (v : Word) : State :=
  { s with mem := Memory.writeRange (fun b => octetOfWord v (b - a)) a n s.mem }

/-! ## Unspecified octets -/

/-- A host read of `n` OUT_BUF octets while BUSY = 1: "an unspecified value for each octet (a model
draws it)" (20_memory.md R68; log 4). -/
def State.drawnOctets (s : State) (a n : Nat) : Word :=
  wordOfOctets ((List.range n).map fun k => Config.freeOctet s.draws (a + k))

/-- Count one draw, so that the next one is independent of it. -/
def State.countDraw (s : State) : State := { s with draws := s.draws + 1 }

/-- OUT_BUF after a failed DECODE: every octet below `floor(5 * e.n / 8)` has an unspecified value, the
others are unchanged (60_exceptions.md R222; log 3). -/
def State.unspecifyOutput (s : State) : State :=
  { s with
    mem := Memory.writeRange (Config.freeOctet s.draws) (outAddr 0) (5 * s.eng.n / 8) s.mem
    draws := s.draws + 1 }

/-! ## Start and completion of a command -/

/-- The engine as a start leaves it: `op`, `h`, `n` latched, every other element cleared
(43_control.md R202). -/
def Engine.started (op : EngineOp) (h : Alphabet) (n : Nat) : Engine where
  op := op
  h := h
  n := n
  rd := 0
  wr := 0
  acc := 0
  nb := 0
  symcnt := 0
  padSeen := false
  u8 := .acc
  u8Bad := false

/-- `start(op, h)` (43_control.md R202). -/
def State.start (s : State) (op : EngineOp) (h : Alphabet) : State :=
  { s with
    eng := Engine.started op h s.inLen.toNat
    outLen := 0
    done := false
    err := .none
    errChar := 0
    busy := true }

/-- `complete(err, ch, len)` (43_control.md R206): the one way a command ends. -/
def State.complete (s : State) (err : ErrCode) (ch : Byte) (len : Nat) : State :=
  { s with
    busy := false
    done := true
    err := err
    errChar := ch
    outLen := if err = .none then BitVec.ofNat 32 len else 0 }

/-- A handler "returns" by clearing DONE (60_exceptions.md R231): the effect of a STATUS write with
bit 1 = 1 (10_state.md R26). ERR and ERRCHAR stay (R27). -/
def State.clearDone (s : State) : State := { s with done := false }

/-- Record the response to a transaction. -/
def State.answer (s : State) (r : Response) : State := { s with resp := some r }

/-- Take the first event off the port. -/
def State.withPort (s : State) (rest : List Event) : State := { s with port := rest }

/-! ## Reset (70_reset_and_hazards.md R250 to R252) -/

/-- Every register and engine element at its reset value, the buffers unspecified anew (a new epoch),
a running command abandoned. The configuration, the port and the level of the reset input stay. -/
def State.resetValues (s : State) : State :=
  { State.resetIn s.cfg with
    resetAsserted := s.resetAsserted
    port := s.port
    epoch := s.draws
    draws := s.draws + 1 }

/-- The reset input is asserted: the block is at its reset values and answers no transaction (log 11). -/
def State.enterReset (s : State) : State := { s.resetValues with resetAsserted := true }

/-- The reset input is released: "when it is released the state is" the table of R250 (log 11). -/
def State.leaveReset (s : State) : State := { s.resetValues with resetAsserted := false }

end Sys2Proof.Machine
end

