-- ==== Sys2Proof/Machine/Flags.lean ====
section
/-! DEFINITION. The flags and their register images: STATUS (10_state.md R25 to R29), CTRL (R23), the
codes of ERR (60_exceptions.md R220) and the irq output (60_exceptions.md R230). -/

namespace Sys2Proof.Machine

/-- `code(err)` (43_control.md R206, 60_exceptions.md R220). -/
def ErrCode.code : ErrCode → BitVec 3
  | .none => 0
  | .invalidChar => 1
  | .invalidUtf8 => 2
  | .badCmd => 3
  | .badLen => 4

/-- The STATUS register as read: BUSY bit 0, DONE bit 1, ERR bits 6:4, ERRCHAR bits 15:8, the reserved
bits 3:2, 7 and 31:16 zero (10_state.md R25 to R29). -/
def State.statusWord (s : State) : Word :=
  0#16 ++ s.errChar ++ 0#1 ++ s.err.code ++ 0#2 ++ BitVec.ofBool s.done ++ BitVec.ofBool s.busy

/-- The CTRL register as read: IE bit 0, the reserved bits 31:1 zero (10_state.md R23). -/
def State.ctrlWord (s : State) : Word := 0#31 ++ BitVec.ofBool s.ie

/-- A CTRL write: only bit 0 is stored (10_state.md R23). -/
def State.writeCtrl (s : State) (v : Word) : State := { s with ie := v.getLsbD 0 }

/-- A STATUS write: bit 1 = 1 clears DONE, every other bit is ignored (10_state.md R26, R27, R29). -/
def State.writeStatus (s : State) (v : Word) : State := if v.getLsbD 1 then s.clearDone else s

/-- The level output `irq = CTRL.IE AND STATUS.DONE` (60_exceptions.md R230, 10_state.md R38). -/
def State.irq (s : State) : Bool := s.ie && s.done

end Sys2Proof.Machine
end

