-- ==== Sys2Proof/Machine/Operands.lean ====
section
/-! DEFINITION. The operands of a command. They are implicit: IN_LEN and the octets of IN_BUF below it
(30_encoding.md R92); and the shared start of every ENCODE and DECODE command (43_control.md R200). -/

namespace Sys2Proof.Machine

/-- The input sequence of the running command, `MemRead(IN, 0, e.n)` (20_memory.md R64). -/
def State.commandInput (s : State) : List Byte := s.memReadIn 0 s.eng.n

/-- The input sequence a command started now would take, `MemRead(IN, 0, IN_LEN)` (30_encoding.md R92). -/
def State.hostInput (s : State) : List Byte := s.memReadIn 0 s.inLen.toNat

/-- IN_LEN > IN_BUF_SIZE, as unsigned numbers (43_control.md R204). -/
def State.lengthTooLong (s : State) : Bool := decide (s.cfg.inBufSize < s.inLen.toNat)

/-- `on_cmd_write` for an ENCODE or DECODE word (43_control.md R200): dropped while BUSY = 1 (R201),
BAD_LEN when IN_LEN > IN_BUF_SIZE (R204), else started (R202). -/
def State.dispatchCommand (s : State) (op : EngineOp) (h : Alphabet) : State :=
  if s.busy then s
  else if s.lengthTooLong then s.complete .badLen 0 0
  else s.start op h

/-- `on_cmd_write` for an illegal word (43_control.md R200): dropped while BUSY = 1 (R201), else
BAD_CMD at once (R203). -/
def State.rejectCommand (s : State) : State :=
  if s.busy then s else s.complete .badCmd 0 0

/-- IN_LEN write: any 32-bit value, ignored while BUSY = 1 (10_state.md R30). -/
def State.writeInLen (s : State) (v : Word) : State :=
  if s.busy then s else { s with inLen := v }

/-- IN_BUF write of `n` octets at index `i`: ignored while BUSY = 1 (20_memory.md R68). -/
def State.writeInput (s : State) (i n : Nat) (v : Word) : State :=
  if s.busy then s else s.writeOctets (inAddr i) n v

end Sys2Proof.Machine
end

