-- ==== Sys2Proof/Machine/Control.lean ====
section
/-! DEFINITION. NOP (43_control.md R207). The rejected words of the same file (R203) are no command:
their handling is `State.rejectCommand` in Operands.lean. -/

namespace Sys2Proof.Machine

/-- NOP, word 0x00000000 (43_control.md R207): no state changes, whether BUSY is 0 or 1 (R201). -/
def execNop (s : State) : Host.Outcome State Fault Refusal := .next s

end Sys2Proof.Machine
end

