-- ==== Sys2Proof/Machine/Alphabet.lean ====
section
/-! DEFINITION. The alphabet tables, the case normaliser and the whitespace set (40_alphabet.md R110
to R119), shared by the encoder and the decoder. -/

namespace Sys2Proof.Machine

/-- `'='` is 0x3D (40_alphabet.md R110). -/
def padOctet : Byte := 0x3D

/-- `ENC_LUT(h, v)` (40_alphabet.md R112). -/
def encLut : Alphabet → BitVec 5 → Byte
  | .std, v => if v < 26 then 0x41 + v.setWidth 8 else 0x18 + v.setWidth 8
  | .hex, v => if v < 10 then 0x30 + v.setWidth 8 else 0x37 + v.setWidth 8

/-- `DEC_LUT(h, c)` (40_alphabet.md R113); `none` is the spec's NONE. -/
def decLut : Alphabet → Byte → Option (BitVec 5)
  | .std, c =>
    if 0x41 ≤ c ∧ c ≤ 0x5A then some ((c - 0x41).setWidth 5)
    else if 0x32 ≤ c ∧ c ≤ 0x37 then some ((c - 0x18).setWidth 5)
    else none
  | .hex, c =>
    if 0x30 ≤ c ∧ c ≤ 0x39 then some ((c - 0x30).setWidth 5)
    else if 0x41 ≤ c ∧ c ≤ 0x56 then some ((c - 0x37).setWidth 5)
    else none

/-- `isWS(c)`: the six whitespace octets (40_alphabet.md R116). -/
def isWS (c : Byte) : Bool :=
  c == 0x09 || c == 0x0A || c == 0x0B || c == 0x0C || c == 0x0D || c == 0x20

/-- `up(c)`: ASCII lowercase letters to uppercase (40_alphabet.md R117). -/
def up (c : Byte) : Byte := if 0x61 ≤ c ∧ c ≤ 0x7A then c - 0x20 else c

/-- The classes of an input octet (40_alphabet.md R118). -/
inductive CharClass where
  | ws
  | pad
  | sym (v : BitVec 5)
  | bad (x : Byte)
  deriving DecidableEq, Repr

/-- `classify(h, c)` (40_alphabet.md R118). -/
def classify (h : Alphabet) (c : Byte) : CharClass :=
  if isWS c then .ws
  else if up c = padOctet then .pad
  else
    match decLut h (up c) with
    | some v => .sym v
    | none => .bad (up c)

end Sys2Proof.Machine
end

