-- ==== Sys2Proof/Machine/EncodeCommand.lean ====
section
/-! DEFINITION. ENCODE (41_encode.md R130 to R136): the 5-bit grouper, the final group, the padding
counter, the engine's run of the command, and the meanings of ENCODE.STD and ENCODE.HEX. -/

namespace Sys2Proof.Machine

/-- `emit(o)` (41_encode.md R134): write the next output octet, count it modulo 8. -/
def State.emit (s : State) (o : Byte) : State :=
  { s.memWriteOut s.eng.wr o with
    eng := { s.eng with wr := s.eng.wr + 1, symcnt := s.eng.symcnt + 1 } }

/-- The low `nb` bits of an accumulator: `acc & ((1 << nb) - 1)`. -/
def lowBits (acc : BitVec 12) (nb : Nat) : BitVec 12 := acc &&& ((1#12 <<< nb) - 1#12)

/-- One turn of the grouper's loop: emit the 5 oldest held bits and keep the `nb - 5` newest
(41_encode.md R131). -/
def State.emitGroup (s : State) : State :=
  let nb := s.eng.nb - 5
  let g := (s.eng.acc >>> nb).setWidth 5
  let t := s.emit (encLut s.eng.h g)
  { t with eng := { t.eng with nb := nb, acc := lowBits s.eng.acc nb } }

/-- `while e.nb >= 5` of `grouper_step`; each turn takes 5 off `nb`, so `nb` turns suffice. -/
def groupLoop : Nat → State → State
  | 0, s => s
  | fuel + 1, s => if s.eng.nb < 5 then s else groupLoop fuel s.emitGroup

/-- The first four lines of `grouper_step`: take the next input octet into the accumulator
(41_encode.md R131). -/
def State.takeOctet (s : State) : State :=
  { s with
    eng := { s.eng with
      rd := s.eng.rd + 1
      acc := (s.eng.acc <<< 8) ||| (s.inOctet s.eng.rd).setWidth 12
      nb := s.eng.nb + 8 } }

/-- `grouper_step(h)` (41_encode.md R131). -/
def State.grouperStep (s : State) : State :=
  let t := s.takeOctet
  groupLoop t.eng.nb t

/-- `while e.rd < e.n: grouper_step(e.h)`; each turn adds 1 to `rd` (41_encode.md R136). -/
def grouperLoop : Nat → State → State
  | 0, s => s
  | fuel + 1, s => grouperLoop fuel s.grouperStep

/-- `grouper_flush(h)` (41_encode.md R132). -/
def State.grouperFlush (s : State) : State :=
  if 0 < s.eng.nb then
    let g := (s.eng.acc <<< (5 - s.eng.nb)).setWidth 5
    let t := s.emit (encLut s.eng.h g)
    { t with eng := { t.eng with nb := 0, acc := 0 } }
  else s

/-- `while e.symcnt != 0: emit(0x3D)`; the counter is modulo 8, so 8 turns suffice. -/
def padLoop : Nat → State → State
  | 0, s => s
  | fuel + 1, s => if s.eng.symcnt = 0 then s else padLoop fuel (s.emit padOctet)

/-- `pad()` (41_encode.md R133). -/
def State.pad (s : State) : State := padLoop 8 s

/-- The engine's run of ENCODE up to `complete` (41_encode.md R136). -/
def State.encodeStages (s : State) : State :=
  (grouperLoop (s.eng.n - s.eng.rd) s).grouperFlush.pad

/-- The engine transition of ENCODE (41_encode.md R136): it always completes with NONE (R221). -/
def State.runEncode (s : State) : State :=
  let t := s.encodeStages
  t.complete .none 0 t.eng.wr

/-- ENCODE.STD, word 0x00000001 (41_encode.md R136 with 43_control.md R200): the CMD write starts the
command; the engine transition `State.runEncode` ends it (43_control.md R205). -/
def execEncodeStd (s : State) : Host.Outcome State Fault Refusal :=
  .next (s.dispatchCommand .encode .std)

/-- ENCODE.HEX, word 0x00000011 (41_encode.md R136 with 43_control.md R200): as ENCODE.STD, with the
hex-extended alphabet. -/
def execEncodeHex (s : State) : Host.Outcome State Fault Refusal :=
  .next (s.dispatchCommand .encode .hex)

end Sys2Proof.Machine
end

