-- ==== Sys2Proof/Machine/Utf8.lean ====
section
/-! DEFINITION. The UTF-8 check (42_decode.md R170): the checker `u8_step` as the engine runs it, and
the table of well-formed sequences it is to agree with. -/

namespace Sys2Proof.Machine

/-- The octet `o` lies in `lo..hi`. -/
def inRange (lo hi o : Byte) : Bool := decide (lo ≤ o) && decide (o ≤ hi)

/-- The next checker state, or `none` where R170 says `fail()`. -/
def u8Next : U8State → Byte → Option U8State
  | .acc, o =>
    if o ≤ 0x7F then some .acc
    else if inRange 0xC2 0xDF o then some .c1
    else if o = 0xE0 then some .e0
    else if o = 0xED then some .ed
    else if inRange 0xE1 0xEF o then some .c2
    else if o = 0xF0 then some .f0
    else if inRange 0xF1 0xF3 o then some .c3
    else if o = 0xF4 then some .f4
    else none
  | .c1, o => if inRange 0x80 0xBF o then some .acc else none
  | .c2, o => if inRange 0x80 0xBF o then some .c1 else none
  | .c3, o => if inRange 0x80 0xBF o then some .c2 else none
  | .e0, o => if inRange 0xA0 0xBF o then some .c1 else none
  | .ed, o => if inRange 0x80 0x9F o then some .c1 else none
  | .f0, o => if inRange 0x90 0xBF o then some .c2 else none
  | .f4, o => if inRange 0x80 0x8F o then some .c2 else none

/-- `u8_step(o)` on the pair (`e.u8`, `e.u8_bad`): `fail()` sets the sticky flag and goes to ACC. -/
def u8Step (c : U8State × Bool) (o : Byte) : U8State × Bool :=
  match u8Next c.1 o with
  | some q => (q, c.2)
  | none => (.acc, true)

/-- The checker run over a list of octets from ACC with the flag clear. -/
def u8Run (d : List Byte) : U8State × Bool := d.foldl u8Step (.acc, false)

/-- The verdict at the end of input: no `fail()` and no unfinished sequence. -/
def u8Accepts (c : U8State × Bool) : Bool := decide (c.1 = .acc) && !c.2

/-- `utf8_valid(D)` as the checker decides it (42_decode.md R170, last sentence but two). -/
def utf8Valid (d : List Byte) : Bool := u8Accepts (u8Run d)

/-- The table of well-formed sequences, one row a line, a range for each octet (42_decode.md R170). -/
def utf8Table : List (List (Byte × Byte)) :=
  [ [(0x00, 0x7F)],
    [(0xC2, 0xDF), (0x80, 0xBF)],
    [(0xE0, 0xE0), (0xA0, 0xBF), (0x80, 0xBF)],
    [(0xE1, 0xEC), (0x80, 0xBF), (0x80, 0xBF)],
    [(0xED, 0xED), (0x80, 0x9F), (0x80, 0xBF)],
    [(0xEE, 0xEF), (0x80, 0xBF), (0x80, 0xBF)],
    [(0xF0, 0xF0), (0x90, 0xBF), (0x80, 0xBF), (0x80, 0xBF)],
    [(0xF1, 0xF3), (0x80, 0xBF), (0x80, 0xBF), (0x80, 0xBF)],
    [(0xF4, 0xF4), (0x80, 0x8F), (0x80, 0xBF), (0x80, 0xBF)] ]

/-- A sequence fits a row: as many octets as ranges, each in its range. -/
def fitsRow : List (Byte × Byte) → List Byte → Bool
  | [], [] => true
  | r :: rs, o :: os => inRange r.1 r.2 o && fitsRow rs os
  | _, _ => false

/-- One well-formed sequence: it fits some row of the table. -/
def wellFormedSeq (q : List Byte) : Bool := utf8Table.any fun row => fitsRow row q

/-- `utf8_valid(D)` as R170 defines it: `D` is a concatenation of well-formed sequences. -/
def IsUtf8 (d : List Byte) : Prop :=
  ∃ seqs : List (List Byte), d = seqs.flatten ∧ ∀ q ∈ seqs, wellFormedSeq q = true

end Sys2Proof.Machine
end

