-- ==== Sys2Proof/Machine/DecodeCommand.lean ====
section
/-! DEFINITION. DECODE (42_decode.md R160 to R172): stripper, normaliser, padding and symbol
validators, bit-unpacker, UTF-8 check, the engine's run of the command, and the meanings of DECODE.STD
and DECODE.HEX. -/

namespace Sys2Proof.Machine

/-- `raise E(info)` inside a running command (00_scope.md R10): the error, its information, and the
state in which it was raised. -/
structure Raised where
  err : ErrCode
  ch : Byte
  at_ : State
  deriving DecidableEq, Repr

/-- The checker pair of the engine (42_decode.md R170). -/
def Engine.checker (e : Engine) : U8State × Bool := (e.u8, e.u8Bad)

/-- `out(o)` (42_decode.md R169): write the octet, then `u8_step(o)`. -/
def State.outOctetStep (s : State) (o : Byte) : State :=
  let q := u8Step s.eng.checker o
  { s.memWriteOut s.eng.wr o with
    eng := { s.eng with wr := s.eng.wr + 1, u8 := q.1, u8Bad := q.2 } }

/-- The first two lines of `unpack(v)`: append the 5 bits of `v` (42_decode.md R168). -/
def State.pushSymbol (s : State) (v : BitVec 5) : State :=
  { s with eng := { s.eng with acc := (s.eng.acc <<< 5) ||| v.setWidth 12, nb := s.eng.nb + 5 } }

/-- The oldest 8 held bits leave as one octet (42_decode.md R168). -/
def State.popOctet (s : State) : State :=
  let nb := s.eng.nb - 8
  let t := s.outOctetStep ((s.eng.acc >>> nb).setWidth 8)
  { t with eng := { t.eng with nb := nb, acc := lowBits s.eng.acc nb } }

/-- `unpack(v)` (42_decode.md R168). -/
def State.unpack (s : State) (v : BitVec 5) : State :=
  let t := s.pushSymbol v
  if 8 ≤ t.eng.nb then t.popOctet else t

/-- Step over the input octet just read: `e.rd <- e.rd + 1`. -/
def State.nextOctet (s : State) : State := { s with eng := { s.eng with rd := s.eng.rd + 1 } }

/-- `e.pad_seen <- 1` (42_decode.md R165). -/
def State.seePad (s : State) : State := { s with eng := { s.eng with padSeen := true } }

/-- One turn of the loop of DECODE (42_decode.md R172): read an octet, classify it, act on its class. -/
def State.decodeOctet (s : State) : Except Raised State :=
  let t := s.nextOctet
  match classify s.eng.h (s.inOctet s.eng.rd) with
  | .ws => .ok t
  | .pad => .ok t.seePad
  | .sym v => if t.eng.padSeen then .error ⟨.invalidChar, padOctet, t⟩ else .ok (t.unpack v)
  | .bad x => if t.eng.padSeen then .error ⟨.invalidChar, padOctet, t⟩ else .error ⟨.invalidChar, x, t⟩

/-- `while e.rd < e.n` of DECODE; each turn adds 1 to `rd`, a raise ends it (42_decode.md R172). -/
def decodeLoop : Nat → State → Except Raised State
  | 0, s => .ok s
  | fuel + 1, s =>
    match s.decodeOctet with
    | .ok t => decodeLoop fuel t
    | .error r => .error r

/-- The stages of DECODE with the verdict at the end of input (42_decode.md R170, R172). -/
def State.decodeStages (s : State) : Except Raised State :=
  match decodeLoop (s.eng.n - s.eng.rd) s with
  | .error r => .error r
  | .ok t => if u8Accepts t.eng.checker then .ok t else .error ⟨.invalidUtf8, 0, t⟩

/-- The engine transition of DECODE (42_decode.md R172). After an error OUT_BUF is unspecified below
`floor(5 * e.n / 8)` (60_exceptions.md R222). -/
def State.runDecode (s : State) : State :=
  match s.decodeStages with
  | .ok t => t.complete .none 0 t.eng.wr
  | .error r => r.at_.unspecifyOutput.complete r.err r.ch 0

/-- DECODE.STD, word 0x00000002 (42_decode.md R172 with 43_control.md R200): the CMD write starts the
command; the engine transition `State.runDecode` ends it (43_control.md R205). -/
def execDecodeStd (s : State) : Host.Outcome State Fault Refusal :=
  .next (s.dispatchCommand .decode .std)

/-- DECODE.HEX, word 0x00000012 (42_decode.md R172 with 43_control.md R200): as DECODE.STD, with the
hex-extended alphabet. -/
def execDecodeHex (s : State) : Host.Outcome State Fault Refusal :=
  .next (s.dispatchCommand .decode .hex)

end Sys2Proof.Machine
end

