-- ==== Sys2Proof/Machine/Dispatch.lean ====
section
/-! DEFINITION. What a CMD write does for each legal command word (43_control.md R200). -/

namespace Sys2Proof.Machine

def exec (i : Instr) (s : State) : Host.Outcome State Fault Refusal :=
  match i with
  | .nop => Sys2Proof.Machine.execNop s
  | .encodeStd => Sys2Proof.Machine.execEncodeStd s
  | .encodeHex => Sys2Proof.Machine.execEncodeHex s
  | .decodeStd => Sys2Proof.Machine.execDecodeStd s
  | .decodeHex => Sys2Proof.Machine.execDecodeHex s

end Sys2Proof.Machine
end

