-- ==== Sys2Proof/Machine/Bus.lean ====
section
/-! DEFINITION. The host port (20_memory.md R60 to R69, 10_state.md R20 to R34): address map, access
rules, register reads and writes, buffer reads and writes, BUSERR. -/

namespace Sys2Proof.Machine

/-- The registers of 10_state.md R20; `reserved` is every other offset of REGS (R34). -/
inductive Reg where
  | id
  | ctrl
  | cmd
  | status
  | inLen
  | outLen
  | inCap
  | outCap
  | reserved
  deriving DecidableEq, Repr

/-- The register at a REGS offset (10_state.md R20). -/
def regAt (a : Nat) : Reg :=
  if a = 0x000 then .id
  else if a = 0x004 then .ctrl
  else if a = 0x008 then .cmd
  else if a = 0x00C then .status
  else if a = 0x010 then .inLen
  else if a = 0x014 then .outLen
  else if a = 0x018 then .inCap
  else if a = 0x01C then .outCap
  else .reserved

/-- Where a transaction lands: a register, a buffer index, or BUSERR. -/
inductive Place where
  | reg (r : Reg)
  | inBuf (i : Nat)
  | outBuf (i : Nat)
  | busErr
  deriving DecidableEq, Repr

/-- Address map and access rules (20_memory.md R61, R65, R66): registers at size 4 and 4-aligned;
buffer accesses naturally aligned and wholly inside the capacity; everything else BUSERR (R226). -/
def place (p : Config.Params) (a size : Nat) : Place :=
  if a < 0x1000 then
    if size = 4 ∧ a % 4 = 0 then .reg (regAt a) else .busErr
  else if 0x10000 ≤ a ∧ a < 0x20000 then
    if a % size = 0 ∧ (a - 0x10000) + size ≤ p.inBufSize then .inBuf (a - 0x10000) else .busErr
  else if 0x20000 ≤ a ∧ a < 0x30000 then
    if a % size = 0 ∧ (a - 0x20000) + size ≤ p.outBufSize then .outBuf (a - 0x20000) else .busErr
  else .busErr

/-- The place a transaction addresses. -/
def placeOf (p : Config.Params) (t : Txn) : Place := place p t.addr.toNat t.size.octets

/-- The constant of the ID register: "B32" and revision 0x01 (10_state.md R22). -/
def idWord : Word := 0x42333201

/-- A register read (10_state.md R20 to R34): CMD reads 0 (R24), reserved offsets read 0 (R34). -/
def State.readReg (s : State) : Reg → Word
  | .id => idWord
  | .ctrl => s.ctrlWord
  | .cmd => 0
  | .status => s.statusWord
  | .inLen => s.inLen
  | .outLen => s.outLen
  | .inCap => BitVec.ofNat 32 s.cfg.inBufSize
  | .outCap => BitVec.ofNat 32 s.cfg.outBufSize
  | .reserved => 0

/-- `on_cmd_write(w)` (43_control.md R200): a legal word is executed, an illegal one rejected; both are
dropped while BUSY = 1 (R201). -/
def State.writeCmd (s : State) (w : Word) : Host.Outcome State Fault Refusal :=
  match decode w with
  | .command i => exec i s
  | .illegal _ => .next s.rejectCommand

/-- A register write (10_state.md R20 to R34): writes to read-only registers and to reserved offsets
are ignored. -/
def State.writeReg (s : State) (r : Reg) (v : Word) : Host.Outcome State Fault Refusal :=
  match r with
  | .id => .next s
  | .ctrl => .next (s.writeCtrl v)
  | .cmd => s.writeCmd v
  | .status => .next (s.writeStatus v)
  | .inLen => .next (s.writeInLen v)
  | .outLen => .next s
  | .inCap => .next s
  | .outCap => .next s
  | .reserved => .next s

/-- A read of `n` octets at OUT_BUF index `i`: the octets, or free octets while BUSY = 1
(20_memory.md R68; log 4). -/
def State.readOutput (s : State) (i n : Nat) : State :=
  if s.busy then (s.answer (.data (s.drawnOctets (outAddr i) n))).countDraw
  else s.answer (.data (s.readOctets (outAddr i) n))

/-- One transaction, whole (20_memory.md R60, R69, R80), with its response in `resp`. -/
def State.perform (s : State) (t : Txn) : Host.Outcome State Fault Refusal :=
  match placeOf s.cfg t with
  | .busErr => .next (s.answer .busErr)
  | .reg r =>
    match t.access with
    | .read => .next (s.answer (.data (s.readReg r)))
    | .write v => (s.answer .ok).writeReg r v
  | .inBuf i =>
    match t.access with
    | .read => .next (s.answer (.data (s.readOctets (inAddr i) t.size.octets)))
    | .write v => .next ((s.answer .ok).writeInput i t.size.octets v)
  | .outBuf i =>
    match t.access with
    | .read => .next (s.readOutput i t.size.octets)
    | .write _ => .next (s.answer .ok)

/-- `W32 0x008, w`: the transaction that carries a command word (30_encoding.md R98). -/
def cmdWrite (w : Word) : Txn where
  addr := 0x008
  size := .four
  access := .write w

/-- System placement (20_memory.md R60, 60_exceptions.md R241): the system address bits above bit 17
select the block at BASE; the low 18 bits are the block-relative offset. -/
def selectedOffset (p : Config.Params) (sysAddr : Nat) : Option Offset :=
  if sysAddr / 0x40000 = p.base / 0x40000 then some (BitVec.ofNat 18 sysAddr) else none

/-- The reset input is asserted at this level of its pin: high or low by the polarity of RESET_KIND
(00_scope.md R6, 70_reset_and_hazards.md R250; log 19). -/
def resetAsserts (k : Config.ResetKind) (pin : Bool) : Bool :=
  match k.polarity with
  | .activeHigh => pin
  | .activeLow => !pin

/-- The event that a change of the reset pin to this level is (70_reset_and_hazards.md R250; log 19). -/
def resetEvent (p : Config.Params) (pin : Bool) : Event :=
  if resetAsserts p.resetKind pin then .resetAssert else .resetRelease

end Sys2Proof.Machine
end

