-- ==== Sys2Proof/Machine/Engine.lean ====
section
/-! DEFINITION. The engine agent (43_control.md R205): while BUSY = 1 it has exactly one enabled
transition, which runs the whole command; while BUSY = 0 it has none. -/

namespace Sys2Proof.Machine

/-- The whole command in one atomic step, ENCODE or DECODE by `e.op` (43_control.md R205). -/
def State.runCommand (s : State) : State :=
  match s.eng.op with
  | .encode => s.runEncode
  | .decode => s.runDecode

/-- The engine's turn: its transition if BUSY = 1, nothing if BUSY = 0 (43_control.md R205; log 15). -/
def State.engineTurn (s : State) : State := if s.busy then s.runCommand else s

end Sys2Proof.Machine
end

