-- ==== Sys2Proof/Machine/Step.lean ====
section
/-! DEFINITION. One step: the next event of the port (20_memory.md R80), or the engine's turn when none
waits (43_control.md R205). -/

namespace Sys2Proof.Machine

/-- One step of the machine. A waiting event is taken off the port and happens whole; a transaction
while reset is asserted is refused (70_reset_and_hazards.md R250; log 11). With no event waiting the
engine takes its turn: "It does occur" (43_control.md R205; log 7). -/
def step (s : State) : Host.Outcome State Fault Refusal :=
  match s.port with
  | [] => .next s.engineTurn
  | .txn t :: rest =>
    if s.resetAsserted then .refused .transactionDuringReset else (s.withPort rest).perform t
  | .engineSlot :: rest => .next (s.withPort rest).engineTurn
  | .resetAssert :: rest => .next (s.withPort rest).enterReset
  | .resetRelease :: rest => .next (s.withPort rest).leaveReset

/-- The state in which the very next step is the CMD write of the word: the write is put first at the
port, and the reset input is released, since the block answers no transaction during reset (log 8). -/
def State.withFetchWord (s : State) (nbits w : Nat) : State :=
  { s with
    port := .txn (cmdWrite (BitVec.ofNat 32 (w % 2 ^ nbits))) :: s.port
    resetAsserted := false }

end Sys2Proof.Machine
end

