-- ==== Sys2Proof/Machine/Codec.lean ====
section
/-! DEFINITION. The functional forms: `encode_fn` (41_encode.md R135) and `decode_fn` (42_decode.md
R162), functions of the whole input that the engine's stages are to agree with (R135, R174). The
machine does not call them. -/

namespace Sys2Proof.Machine

/-- `bits8(o)`, most-significant bit first (00_scope.md R9). -/
def bits8 (o : Byte) : List Bool :=
  [o.getLsbD 7, o.getLsbD 6, o.getLsbD 5, o.getLsbD 4, o.getLsbD 3, o.getLsbD 2, o.getLsbD 1, o.getLsbD 0]

/-- `bits5(v)`, most-significant bit first (00_scope.md R9). -/
def bits5 (v : BitVec 5) : List Bool :=
  [v.getLsbD 4, v.getLsbD 3, v.getLsbD 2, v.getLsbD 1, v.getLsbD 0]

/-- `val(s)`: the number whose binary digits, most-significant first, are `s` (00_scope.md R9). -/
def bitsVal (s : List Bool) : Nat := s.foldl (fun acc b => 2 * acc + b.toNat) 0

/-- `s[i..j)` (00_scope.md R9). -/
def bitSlice (s : List Bool) (i j : Nat) : List Bool := (s.take j).drop i

/-- The zero-filled bit stream `S'` of 41_encode.md R135. -/
def encodeBits (b : List Byte) : List Bool :=
  let s := b.flatMap bits8
  s ++ List.replicate (5 * ceilDiv (8 * b.length) 5 - 8 * b.length) false

/-- The index of symbol `k` (41_encode.md R135). -/
def symbolIndex (b : List Byte) (k : Nat) : BitVec 5 :=
  BitVec.ofNat 5 (bitsVal (bitSlice (encodeBits b) (5 * k) (5 * k + 5)))

/-- `encode_fn(h, B)` (41_encode.md R135). -/
def encodeFn (h : Alphabet) (b : List Byte) : List Byte :=
  let m := ceilDiv (8 * b.length) 5
  let p := 8 * ceilDiv m 8
  (List.range m).map (fun k => encLut h (symbolIndex b k)) ++ List.replicate (p - m) padOctet

/-- The decoder's result (42_decode.md R162). -/
inductive DecodeResult where
  | ok (d : List Byte)
  | invalidCharacter (x : Byte)
  | invalidUtf8
  deriving DecidableEq, Repr

/-- `T` of 42_decode.md R162: whitespace dropped, the rest normalised. -/
def normalised (c : List Byte) : List Byte := (c.filter fun x => !isWS x).map up

/-- `T` without its longest suffix consisting only of 0x3D (42_decode.md R162). -/
def dropPadding (t : List Byte) : List Byte := (t.reverse.dropWhile fun x => x == padOctet).reverse

/-- The octets `D` of the symbols `v`: 5 bits each, the last `5K mod 8` bits dropped, regrouped by
eight (42_decode.md R162, steps 4 to 6). -/
def octetsOfSymbols (v : List (BitVec 5)) : List Byte :=
  let s := v.flatMap bits5
  (List.range (5 * v.length / 8)).map fun i =>
    BitVec.ofNat 8 (bitsVal (bitSlice s (8 * i) (8 * i + 8)))

/-- `decode_fn(h, C)` (42_decode.md R162). -/
def decodeFn (h : Alphabet) (c : List Byte) : DecodeResult :=
  let t := dropPadding (normalised c)
  match t.find? (fun x => (decLut h x).isNone) with
  | some x => .invalidCharacter x
  | none =>
    let d := octetsOfSymbols (t.filterMap (decLut h))
    if utf8Valid d then .ok d else .invalidUtf8

end Sys2Proof.Machine
end

