-- ==== Sys2Proof/Safety.lean ====
section
/-! DEFINITION. What claims use: the invariant of the machine and the runs it holds along. -/

namespace Sys2Proof.Machine

/-- Every written octet lies in a buffer (20_memory.md R61). -/
def State.memInBuffers (s : State) : Bool := s.mem.all fun c => holdsOctet s.cfg c.1

/-- The engine elements keep the bounds of 10_state.md R40. -/
def State.engineBounded (s : State) : Bool :=
  decide (s.eng.n ≤ s.cfg.inBufSize) && decide (s.eng.rd ≤ s.eng.n) &&
  decide (s.eng.wr ≤ s.cfg.outBufSize) && decide (s.eng.nb ≤ 12)

/-- While BUSY = 1 the registers read as 43_control.md R208 says and the engine stands at the start of
its command, with IN_LEN the latched length (R202, R205). -/
def State.busyAsStarted (s : State) : Bool :=
  !s.busy ||
    (!s.done && decide (s.err = .none) && decide (s.errChar = 0) && decide (s.outLen = 0) &&
      decide (s.eng = Engine.started s.eng.op s.eng.h s.inLen.toNat))

/-- OUT_LEN never exceeds OUT_BUF_SIZE and is 0 unless ERR = NONE (10_state.md R31); ERRCHAR is 0 unless
ERR = INVALID_CHAR (R28). -/
def State.resultsCoherent (s : State) : Bool :=
  decide (s.outLen.toNat ≤ s.cfg.outBufSize) &&
  (decide (s.err = .none) || decide (s.outLen = 0)) &&
  (decide (s.err = .invalidChar) || decide (s.errChar = 0))

/-- While reset is asserted the block is idle with its flags clear (70_reset_and_hazards.md R250). -/
def State.resetIdle (s : State) : Bool :=
  !s.resetAsserted || (!s.busy && !s.done && !s.ie)

/-- The invariant: a legal configuration, canonical memory inside the buffers, bounded engine elements,
a busy block as its start left it, coherent results, an idle block during reset, and fresh draws. -/
abbrev Inv (s : State) : Prop :=
  s.cfg.wf = true ∧ Memory.wf s.mem = true ∧ s.memInBuffers = true ∧ s.engineBounded = true ∧
  s.busyAsStarted = true ∧ s.resultsCoherent = true ∧ s.resetIdle = true ∧ s.epoch < s.draws

/-- A run does not stop: no transaction came while reset was asserted. -/
def SafeRun (k : Nat) (s : State) : Prop := ∃ t, Sys2Proof.core.run k s = .next t

end Sys2Proof.Machine
end

