-- ==== Sys2Proof/Certificates/Slice0/Obligations.lean ====
section
/-! DEFINITION. The statements for the provers. Each docstring names the rule of spec/ it formalises.
The words they share come first. -/

namespace Sys2Proof.Claims

open Sys2Proof.Machine

/-- A 32-bit, 16-bit or 8-bit read at a block offset (20_memory.md R60). -/
def readTxn (a : Offset) (z : Size) : Txn := { addr := a, size := z, access := .read }

/-- A write at a block offset (20_memory.md R60). -/
def writeTxn (a : Offset) (z : Size) (v : Word) : Txn := { addr := a, size := z, access := .write v }

/-- No octet of either buffer differs: every byte reads as before. -/
def SameOctets (s t : State) : Prop := ∀ a, t.octetAt a = s.octetAt a

/-- Every octet outside the block offsets `lo` to `hi - 1` reads as before. -/
def SameOctetsOutside (s t : State) (lo hi : Nat) : Prop :=
  ∀ a, (a < lo ∨ hi ≤ a) → t.octetAt a = s.octetAt a

/-- The same state of a block with another BUS_PROTOCOL and RESET_KIND (00_scope.md R6). -/
def withPhysical (s : State) (b : Config.BusProtocol) (k : Config.ResetKind) : State :=
  { s with cfg := { s.cfg with busProtocol := b, resetKind := k } }

/-- What a command never touches: the configuration, CTRL.IE, IN_LEN, the reset input, the latest
response, the waiting events, and the epoch of unwritten octets. -/
structure SameSetting (s t : State) : Prop where
  cfg : t.cfg = s.cfg
  ie : t.ie = s.ie
  inLen : t.inLen = s.inLen
  resetAsserted : t.resetAsserted = s.resetAsserted
  resp : t.resp = s.resp
  port : t.port = s.port
  epoch : t.epoch = s.epoch

/-- The registers as `complete(err, ch, len)` leaves them (43_control.md R206). -/
structure Completed (t : State) (e : ErrCode) (ch : Byte) (len : Nat) : Prop where
  busy : t.busy = false
  done : t.done = true
  err : t.err = e
  errChar : t.errChar = ch
  outLen : t.outLen.toNat = len

/-- The registers, engine elements and buffers as `start(op, h)` leaves them (43_control.md R202). -/
structure StartedFrom (s t : State) (op : EngineOp) (h : Alphabet) : Prop where
  setting : SameSetting s t
  octets : SameOctets s t
  draws : t.draws = s.draws
  op : t.eng.op = op
  h : t.eng.h = h
  n : t.eng.n = s.inLen.toNat
  rd : t.eng.rd = 0
  wr : t.eng.wr = 0
  acc : t.eng.acc = 0
  nb : t.eng.nb = 0
  symcnt : t.eng.symcnt = 0
  padSeen : t.eng.padSeen = false
  u8 : t.eng.u8 = .acc
  u8Bad : t.eng.u8Bad = false
  outLen : t.outLen = 0
  done : t.done = false
  err : t.err = .none
  errChar : t.errChar = 0
  busy : t.busy = true

/-- A command rejected at once with `e`: only the result registers change, and no engine transition
follows (43_control.md R203, R204). -/
structure RejectedFrom (s t : State) (e : ErrCode) : Prop where
  setting : SameSetting s t
  octets : SameOctets s t
  draws : t.draws = s.draws
  eng : t.eng = s.eng
  result : Completed t e 0 0
  noEngineRun : t.engineTurn = t

/-- `u` is `s` after a completed ENCODE of its input (41_encode.md R136): the output is
`encode_fn(h, B)`, every octet outside it reads as before. -/
structure EncodedFrom (s u : State) (h : Alphabet) : Prop where
  setting : SameSetting s u
  draws : u.draws = s.draws
  result : Completed u .none 0 (8 * ceilDiv s.inLen.toNat 5)
  output : u.memReadOut 0 u.outLen.toNat = encodeFn h s.hostInput
  others : SameOctetsOutside s u (outAddr 0) (outAddr (8 * ceilDiv s.inLen.toNat 5))

/-- `u` is `s` after a completed DECODE of its input that gave `r` (42_decode.md R172, 60_exceptions.md
R222): on success exactly the output octets are written; on an error OUT_LEN is 0 and only octets
below `floor(5 * n / 8)` may differ. -/
def DecodedFrom (s u : State) : DecodeResult → Prop
  | .ok d =>
    SameSetting s u ∧ Completed u .none 0 d.length ∧ u.memReadOut 0 d.length = d ∧
      SameOctetsOutside s u (outAddr 0) (outAddr d.length)
  | .invalidCharacter x =>
    SameSetting s u ∧ Completed u .invalidChar x 0 ∧
      SameOctetsOutside s u (outAddr 0) (outAddr (5 * s.inLen.toNat / 8))
  | .invalidUtf8 =>
    SameSetting s u ∧ Completed u .invalidUtf8 0 0 ∧
      SameOctetsOutside s u (outAddr 0) (outAddr (5 * s.inLen.toNat / 8))

/-- The next thing to happen is the engine's turn: an engine slot, or nothing waits at the port. -/
def EngineIsNext (s : State) : Prop := s.port = [] ∨ ∃ rest, s.port = .engineSlot :: rest

/-- The next thing to happen is an edge of the reset input. -/
def ResetIsNext (s : State) : Prop := ∃ rest, s.port = .resetAssert :: rest ∨ s.port = .resetRelease :: rest

/-- The next thing to happen is the write of a word to CMD. -/
def CmdWriteIsNext (s : State) (w : Word) : Prop := ∃ rest, s.port = .txn (cmdWrite w) :: rest

/-- The results of a completed command a host can use agree: STATUS, OUT_LEN, the output sequence. -/
def SameResults (u v : State) : Prop :=
  u.busy = v.busy ∧ u.done = v.done ∧ u.err = v.err ∧ u.errChar = v.errChar ∧ u.outLen = v.outLen ∧
    u.memReadOut 0 u.outLen.toNat = v.memReadOut 0 v.outLen.toNat

/-- An input octet that the decoder takes before any `=`: whitespace or a symbol (40_alphabet.md R118). -/
def IsWsOrSymbol (h : Alphabet) (c : Byte) : Prop := classify h c = .ws ∨ ∃ v, classify h c = .sym v

/-- When a transaction gets BUSERR (60_exceptions.md R226): (a) REGS with size other than 4 or not
4-aligned; (b) a buffer window, misaligned or with any octet at or beyond the capacity; (c) an
unmapped range. -/
def BusErrCondition (p : Config.Params) (a size : Nat) : Prop :=
  (a < 0x1000 ∧ (size ≠ 4 ∨ a % 4 ≠ 0)) ∨
  (0x10000 ≤ a ∧ a < 0x20000 ∧ (a % size ≠ 0 ∨ 0x10000 + p.inBufSize < a + size)) ∨
  (0x20000 ≤ a ∧ a < 0x30000 ∧ (a % size ≠ 0 ∨ 0x20000 + p.outBufSize < a + size)) ∨
  (0x1000 ≤ a ∧ a < 0x10000) ∨ 0x30000 ≤ a

end Sys2Proof.Claims

section

open Sys2Proof Sys2Proof.Machine Sys2Proof.Claims

/-! ## Encoding -/

/-- Words written out from the table of 30_encoding.md R90, and illegal words of 95_test_vectors.md 2.7. -/
def Obligations.WordsOfTheTableDecode : Prop :=
  decode 0x00000000 = .command .nop ∧ decode 0x00000001 = .command .encodeStd ∧
  decode 0x00000011 = .command .encodeHex ∧ decode 0x00000002 = .command .decodeStd ∧
  decode 0x00000012 = .command .decodeHex ∧ decode 0x00000010 = .illegal .nopWithH ∧
  decode 0x00000003 = .illegal .reservedOp ∧ decode 0x00000013 = .illegal .reservedOp ∧
  decode 0x00000021 = .illegal .reservedBits ∧ decode 0x80000001 = .illegal .reservedBits

/-- 30_encoding.md R90, R96: exactly five words are legal, each stands for one command, and the illegal
words are those with RSV nonzero, OP 3 to 15, or NOP with H = 1. -/
def Obligations.ExactlyFiveWordsAreLegal : Prop :=
  (∀ (w : Word) (i : Instr), decode w = .command i ↔
    (w = 0x00000000 ∧ i = .nop) ∨ (w = 0x00000001 ∧ i = .encodeStd) ∨
    (w = 0x00000011 ∧ i = .encodeHex) ∨ (w = 0x00000002 ∧ i = .decodeStd) ∨
    (w = 0x00000012 ∧ i = .decodeHex)) ∧
  (∀ w : Word, (∃ why, decode w = .illegal why) ↔
    w.extractLsb' 5 27 ≠ 0 ∨ 3 ≤ (w.extractLsb' 0 4).toNat ∨
    (w.extractLsb' 0 4 = 0 ∧ w.getLsbD 4 = true))

/-- Encoding then decoding a command gives it back (30_encoding.md R90, R96). -/
def Obligations.DecodeInvertsEncode : Prop := ∀ i : Instr, i.wf = true → decode (encode i) = .command i

/-! ## The step -/

/-- The next step is the next event of the port, whole, or the engine's turn (20_memory.md R80,
43_control.md R205). That the engine moves when nothing waits is the model's choice (log 7). -/
def Obligations.StepTakesTheNextEvent : Prop :=
  ∀ s : State,
    (s.port = [] → step s = .next s.engineTurn) ∧
    (∀ t rest, s.port = .txn t :: rest → s.resetAsserted = false →
      step s = (s.withPort rest).perform t) ∧
    (∀ rest, s.port = .engineSlot :: rest → step s = .next (s.withPort rest).engineTurn) ∧
    (∀ rest, s.port = .resetAssert :: rest → step s = .next (s.withPort rest).enterReset) ∧
    (∀ rest, s.port = .resetRelease :: rest → step s = .next (s.withPort rest).leaveReset)

/-- When the write of a word that decodes to `i` is next, the step is `exec i`, with the write taken off
the port and answered OK (43_control.md R200). -/
def Obligations.StepRunsTheDecodedCommand : Prop :=
  ∀ (s : State) (w : Word) (i : Instr) (rest : List Event),
    s.port = .txn (cmdWrite w) :: rest → s.resetAsserted = false → decode w = .command i →
    step s = exec i ((s.withPort rest).answer .ok)

/-- 43_control.md R203: an illegal word while BUSY = 0 completes at once with BAD_CMD; STATUS reads 0x32. -/
def Obligations.IllegalWordCompletesWithBadCmd : Prop :=
  ∀ (s : State) (w : Word) (why : Illegal) (rest : List Event),
    s.port = .txn (cmdWrite w) :: rest → s.resetAsserted = false → s.busy = false →
    decode w = .illegal why →
    ∃ t, step s = .next t ∧ RejectedFrom ((s.withPort rest).answer .ok) t .badCmd ∧
      t.statusWord = 0x00000032

/-- 43_control.md R201: a CMD write while BUSY = 1 is dropped, whatever the word. -/
def Obligations.CommandWhileBusyIsDropped : Prop :=
  (∀ (s : State) (w : Word) (rest : List Event),
    s.port = .txn (cmdWrite w) :: rest → s.resetAsserted = false → s.busy = true →
    step s = .next ((s.withPort rest).answer .ok)) ∧
  (∀ (s : State) (i : Instr), s.busy = true → exec i s = .next s)

/-! ## NOP, start, BAD_LEN -/

/-- 43_control.md R207: NOP changes no state, BUSY or not, and a CMD write of its word takes its event off
the port and is answered OK, no more; 0x00000010 is no NOP. -/
def Obligations.NopChangesNothing : Prop :=
  decode 0x00000000 = .command .nop ∧ (∃ why, decode 0x00000010 = .illegal why) ∧
  (∀ s : State, exec .nop s = .next s) ∧
  (∀ (s : State) (rest : List Event),
    s.port = .txn (cmdWrite 0x00000000) :: rest → s.resetAsserted = false →
    step s = .next ((s.withPort rest).answer .ok))

/-- 43_control.md R202: with BUSY = 0 and IN_LEN at most IN_BUF_SIZE each ENCODE and DECODE word starts
its command. -/
def Obligations.EncodeAndDecodeWordsStart : Prop :=
  ∀ s : State, s.busy = false → s.inLen.toNat ≤ s.cfg.inBufSize →
    (∃ t, exec .encodeStd s = .next t ∧ StartedFrom s t .encode .std) ∧
    (∃ t, exec .encodeHex s = .next t ∧ StartedFrom s t .encode .hex) ∧
    (∃ t, exec .decodeStd s = .next t ∧ StartedFrom s t .decode .std) ∧
    (∃ t, exec .decodeHex s = .next t ∧ StartedFrom s t .decode .hex)

/-- 43_control.md R204: with BUSY = 0 and IN_LEN above IN_BUF_SIZE each of them completes with BAD_LEN;
an IN_LEN from 0 to IN_BUF_SIZE is legal. -/
def Obligations.OverlongInputCompletesWithBadLen : Prop :=
  ∀ (s : State) (i : Instr), s.busy = false → i ≠ .nop →
    (s.cfg.inBufSize < s.inLen.toNat → ∃ t, exec i s = .next t ∧ RejectedFrom s t .badLen) ∧
    (s.inLen.toNat ≤ s.cfg.inBufSize → ∃ t, exec i s = .next t ∧ t.busy = true ∧ t.err = .none)

/-- Frame of the five commands at the CMD write: whatever a command word does there, it changes only
STATUS, OUT_LEN and the engine elements, and the engine elements only where it starts a command, that
is where BUSY goes from 0 to 1; no octet of memory changes (43_control.md R200 to R204). -/
def Obligations.CommandWordFrame : Prop :=
  ∀ (i : Instr) (s : State), ∃ t, exec i s = .next t ∧ SameSetting s t ∧ SameOctets s t ∧
    t.draws = s.draws ∧ (i = .nop → t = s) ∧ (s.busy = true ∨ t.busy = false → t.eng = s.eng)

/-! ## ENCODE -/

/-- 41_encode.md R136: the start and the engine transition of an ENCODE command write `encode_fn` of the
input and complete with NONE, for both alphabets. -/
def Obligations.EncodeCommandsWriteEncodeFn : Prop :=
  ∀ s : State, s.cfg.wf = true → s.busy = false → s.inLen.toNat ≤ s.cfg.inBufSize →
    (∃ t, exec .encodeStd s = .next t ∧ EncodedFrom s t.engineTurn .std) ∧
    (∃ t, exec .encodeHex s = .next t ∧ EncodedFrom s t.engineTurn .hex)

/-- 41_encode.md R135: the grouper, the flush and the padding, from a cleared engine, write exactly
`encode_fn(h, B)` to OUT_BUF from index 0 and leave `e.wr` at its length. -/
def Obligations.EncoderStagesAgreeWithEncodeFn : Prop :=
  ∀ (s : State) (h : Alphabet) (n : Nat), n ≤ 40960 → s.eng = Engine.started .encode h n →
    s.encodeStages.eng.wr = (encodeFn h s.commandInput).length ∧
    s.encodeStages.memReadOut 0 s.encodeStages.eng.wr = encodeFn h s.commandInput ∧
    SameOctetsOutside s s.encodeStages (outAddr 0) (outAddr s.encodeStages.eng.wr)

/-- 60_exceptions.md R221: a started ENCODE completes without an error. -/
def Obligations.EncodeNeverFails : Prop :=
  ∀ s : State, s.busy = true → s.eng.op = .encode →
    s.engineTurn.busy = false ∧ s.engineTurn.done = true ∧ s.engineTurn.err = .none ∧
    s.engineTurn.errChar = 0

/-- 41_encode.md R131, R133; 42_decode.md R168: each octet emits one or two symbols and leaves 0 to 4
bits; padding leaves the counter at 0; each symbol yields at most one octet and leaves 0 to 7 bits. -/
def Obligations.StagesKeepTheirCounts : Prop :=
  (∀ s : State, s.eng.nb ≤ 4 →
    s.grouperStep.eng.nb ≤ 4 ∧ s.grouperStep.eng.rd = s.eng.rd + 1 ∧
    (s.grouperStep.eng.wr = s.eng.wr + 1 ∨ s.grouperStep.eng.wr = s.eng.wr + 2)) ∧
  (∀ s : State, s.pad.eng.symcnt = 0 ∧ s.eng.wr ≤ s.pad.eng.wr ∧ s.pad.eng.wr ≤ s.eng.wr + 7) ∧
  (∀ (s : State) (v : BitVec 5), s.eng.nb ≤ 7 →
    (s.unpack v).eng.nb ≤ 7 ∧
    ((s.unpack v).eng.wr = s.eng.wr ∨ (s.unpack v).eng.wr = s.eng.wr + 1))

/-- 41_encode.md R137, row by row of its table. -/
def Obligations.EncodeOutputLength : Prop :=
  ∀ (h : Alphabet) (b : List Byte),
    (encodeFn h b).length = 8 * ceilDiv b.length 5 ∧ (encodeFn h b).length % 8 = 0 ∧
    ∀ q r, b.length = 5 * q + r → r < 5 →
      8 * b.length % 5 = [0, 3, 1, 4, 2].getD r 0 ∧
      ((encodeFn h b).filter fun x => x != padOctet).length = 8 * q + [0, 2, 4, 5, 7].getD r 0 ∧
      ((encodeFn h b).filter fun x => x == padOctet).length = [0, 6, 4, 3, 1].getD r 0 ∧
      (encodeFn h b).length = 8 * q + [0, 8, 8, 8, 8].getD r 0 ∧
      (encodeBits b).length - 8 * b.length = [0, 2, 4, 1, 3].getD r 0

/-- 41_encode.md R140: the output is symbols of the alphabet, then one run of 0, 1, 3, 4 or 6 `=`, its
length a multiple of 8. -/
def Obligations.EncodeOutputIsABase32String : Prop :=
  ∀ (h : Alphabet) (b : List Byte), ∃ (syms : List Byte) (k : Nat),
    encodeFn h b = syms ++ List.replicate k padOctet ∧
    (∀ x ∈ syms, (decLut h x).isSome = true ∧ x ≠ padOctet) ∧
    (k = 0 ∨ k = 1 ∨ k = 3 ∨ k = 4 ∨ k = 6) ∧ (encodeFn h b).length % 8 = 0

/-- 41_encode.md R139: the two alphabets give the same structure and, for a nonempty input, different
outputs. -/
def Obligations.AlphabetsDifferInSymbolsOnly : Prop :=
  (∀ v : BitVec 5, encLut .std v ≠ encLut .hex v) ∧
  ∀ b : List Byte, ∃ (v : List (BitVec 5)) (k : Nat),
    encodeFn .std b = v.map (encLut .std) ++ List.replicate k padOctet ∧
    encodeFn .hex b = v.map (encLut .hex) ++ List.replicate k padOctet ∧
    (b ≠ [] → encodeFn .std b ≠ encodeFn .hex b)

/-! ## Alphabet tables -/

/-- 40_alphabet.md R114. -/
def Obligations.AlphabetTablesAreInverse : Prop :=
  (∀ (h : Alphabet) (v : BitVec 5), decLut h (encLut h v) = some v) ∧
  (∀ (h : Alphabet) (c : Byte) (v : BitVec 5), decLut h c = some v → encLut h v = c) ∧
  (∀ h : Alphabet, decLut h 0x3D = none) ∧
  (∀ (h : Alphabet) (v : BitVec 5), ¬(0x61 ≤ encLut h v ∧ encLut h v ≤ 0x7A) ∧
    isWS (encLut h v) = false ∧ encLut h v ≠ 0x3D)

/-- 40_alphabet.md R119: the octets accepted as symbols, and lowercase `w` to `z` under the hex alphabet. -/
def Obligations.OctetsAcceptedAsSymbols : Prop :=
  (∀ c : Byte, (∃ v, classify .std c = .sym v) ↔
    (0x32 ≤ c ∧ c ≤ 0x37) ∨ (0x41 ≤ c ∧ c ≤ 0x5A) ∨ (0x61 ≤ c ∧ c ≤ 0x7A)) ∧
  (∀ c : Byte, (∃ v, classify .hex c = .sym v) ↔
    (0x30 ≤ c ∧ c ≤ 0x39) ∨ (0x41 ≤ c ∧ c ≤ 0x56) ∨ (0x61 ≤ c ∧ c ≤ 0x76)) ∧
  (∀ c : Byte, 0x77 ≤ c → c ≤ 0x7A → classify .hex c = .bad (c - 0x20))

/-! ## DECODE -/

/-- 42_decode.md R172: the start and the engine transition of a DECODE command give the result of
`decode_fn` on the input, in OUT_BUF, OUT_LEN and STATUS, for both alphabets. -/
def Obligations.DecodeCommandsReportDecodeFn : Prop :=
  ∀ s : State, s.cfg.wf = true → s.busy = false → s.inLen.toNat ≤ s.cfg.inBufSize →
    (∃ t, exec .decodeStd s = .next t ∧ DecodedFrom s t.engineTurn (decodeFn .std s.hostInput)) ∧
    (∃ t, exec .decodeHex s = .next t ∧ DecodedFrom s t.engineTurn (decodeFn .hex s.hostInput))

/-- 42_decode.md R174: the stages of DECODE, from a cleared engine, end with the result of `decode_fn`. -/
def Obligations.DecoderStagesAgreeWithDecodeFn : Prop :=
  ∀ (s : State) (h : Alphabet) (n : Nat), n ≤ 40960 → s.eng = Engine.started .decode h n →
    match decodeFn h s.commandInput with
    | .ok d => ∃ t, s.decodeStages = .ok t ∧ t.eng.wr = d.length ∧ t.memReadOut 0 d.length = d ∧
        SameOctetsOutside s t (outAddr 0) (outAddr d.length)
    | .invalidCharacter x => ∃ r, s.decodeStages = .error r ∧ r.err = .invalidChar ∧ r.ch = x
    | .invalidUtf8 => ∃ r, s.decodeStages = .error r ∧ r.err = .invalidUtf8

/-- 42_decode.md R175: decoding an encoder's output gives the input back, or INVALID_UTF8 when the input
is not UTF-8. -/
def Obligations.DecodeOfEncodeRoundTrips : Prop :=
  ∀ (h : Alphabet) (b : List Byte),
    decodeFn h (encodeFn h b) = if utf8Valid b then .ok b else .invalidUtf8

/-- 42_decode.md R176: members of the alphabet followed by any number of `=` never give an invalid
character. -/
def Obligations.AlphabetClosureOfDecode : Prop :=
  ∀ (h : Alphabet) (c : List Byte) (k : Nat), (∀ x ∈ c, (decLut h x).isSome = true) →
    (∃ d, decodeFn h (c ++ List.replicate k padOctet) = .ok d) ∨
    decodeFn h (c ++ List.replicate k padOctet) = .invalidUtf8

/-- 42_decode.md R177: neither the case of a letter nor whitespace anywhere changes the result. -/
def Obligations.CaseAndWhitespaceDoNotMatter : Prop :=
  (∀ (h : Alphabet) (c1 c2 : List Byte) (x : Byte), 0x61 ≤ x → x ≤ 0x7A →
    decodeFn h (c1 ++ x :: c2) = decodeFn h (c1 ++ (x - 0x20) :: c2)) ∧
  (∀ (h : Alphabet) (c1 c2 : List Byte) (w : Byte), isWS w = true →
    decodeFn h (c1 ++ w :: c2) = decodeFn h (c1 ++ c2))

/-- 42_decode.md R171: the output length is `floor(5K / 8)`, K the symbols accepted, with its table. -/
def Obligations.DecodeOutputLength : Prop :=
  ∀ (h : Alphabet) (c d : List Byte), decodeFn h c = .ok d →
    ∃ k, k = (dropPadding (normalised c)).length ∧ k ≤ c.length ∧ d.length = 5 * k / 8 ∧
      d.length ≤ 5 * c.length / 8 ∧ 5 * c.length / 8 ≤ c.length ∧
      ∀ q r, k = 8 * q + r → r < 8 →
        d.length = 5 * q + [0, 0, 1, 1, 2, 3, 3, 4].getD r 0 ∧
        5 * k % 8 = [0, 5, 2, 7, 4, 1, 6, 3].getD r 0

/-- 42_decode.md R165, in the stage and in the whole: once an `=` has been seen, the next octet that is
neither whitespace nor `=` ends the command with InvalidCharacter(0x3D). -/
def Obligations.MisplacedPaddingIsReported : Prop :=
  (∀ s : State, classify s.eng.h (s.inOctet s.eng.rd) = .pad →
    ∃ t, s.decodeOctet = .ok t ∧ t.eng.padSeen = true) ∧
  (∀ s : State, s.eng.padSeen = true → classify s.eng.h (s.inOctet s.eng.rd) ≠ .ws →
    classify s.eng.h (s.inOctet s.eng.rd) ≠ .pad →
    ∃ r, s.decodeOctet = .error r ∧ r.err = .invalidChar ∧ r.ch = 0x3D) ∧
  (∀ (h : Alphabet) (before between after : List Byte) (c : Byte),
    (∀ x ∈ before, IsWsOrSymbol h x) → (∀ x ∈ between, classify h x = .ws ∨ classify h x = .pad) →
    classify h c ≠ .ws → classify h c ≠ .pad →
    decodeFn h (before ++ padOctet :: (between ++ c :: after)) = .invalidCharacter 0x3D)

/-- 42_decode.md R166, R167: before any `=`, the first octet that is no whitespace and no symbol is the
one reported, after normalisation, whatever follows and whatever was unpacked before. -/
def Obligations.FirstNonMemberIsReported : Prop :=
  ∀ (h : Alphabet) (before after : List Byte) (c x : Byte),
    (∀ y ∈ before, IsWsOrSymbol h y) → classify h c = .bad x →
    x = up c ∧ decodeFn h (before ++ c :: after) = .invalidCharacter x

/-- 42_decode.md R173: the last `5K mod 8` bits are dropped unread; "MZ" decodes to `f` as "MY" does. -/
def Obligations.DiscardedBitsDoNotMatter : Prop :=
  (∀ v w : List (BitVec 5), v.length = w.length →
    (v.flatMap bits5).take (8 * (5 * v.length / 8)) = (w.flatMap bits5).take (8 * (5 * w.length / 8)) →
    octetsOfSymbols v = octetsOfSymbols w) ∧
  decodeFn .std [0x4D, 0x5A] = .ok [0x66] ∧ decodeFn .std [0x4D, 0x59] = .ok [0x66]

/-- 42_decode.md R170: the checker accepts exactly the concatenations of well-formed sequences. -/
def Obligations.Utf8CheckerAcceptsExactlyTheTable : Prop :=
  ∀ d : List Byte, utf8Valid d = true ↔ IsUtf8 d

/-! ## The engine -/

/-- Frame of the engine transition: it changes STATUS, OUT_LEN, the engine elements other than `op`, `h`
and `n`, and OUT_BUF octets below `e.wr` (success) or below `floor(5 * e.n / 8)` (error) only. -/
def Obligations.EngineTransitionFrame : Prop :=
  ∀ s : State, Inv s → s.busy = true →
    SameSetting s s.engineTurn ∧ s.engineTurn.eng.op = s.eng.op ∧ s.engineTurn.eng.h = s.eng.h ∧
    s.engineTurn.eng.n = s.eng.n ∧
    (s.engineTurn.err = .none → s.engineTurn.outLen.toNat = s.engineTurn.eng.wr ∧
      SameOctetsOutside s s.engineTurn (outAddr 0) (outAddr s.engineTurn.eng.wr)) ∧
    (s.engineTurn.err ≠ .none → s.engineTurn.outLen = 0 ∧
      SameOctetsOutside s s.engineTurn (outAddr 0) (outAddr (5 * s.eng.n / 8)))

/-- 43_control.md R205: BUSY falls at the latest when the waiting events are done, and when no reset edge
waits it falls by completion, with DONE = 1 (a reset abandons the command: 70_reset_and_hazards.md
R252). That the engine moves when nothing waits is the model's reading of weak fairness (log 7). -/
def Obligations.StartedCommandCompletes : Prop :=
  ∀ s : State, Inv s → s.busy = true →
    ∃ k t, k ≤ s.port.length + 1 ∧ Sys2Proof.core.run k s = .next t ∧ t.busy = false ∧
      ((∀ e ∈ s.port, e ≠ .resetAssert ∧ e ≠ .resetRelease) → t.done = true)

/-- 43_control.md R205, R209: no host transaction delays, aborts or changes a running command. -/
def Obligations.HostCannotChangeARunningCommand : Prop :=
  ∀ (s : State) (x : Txn) (rest : List Event), Inv s → s.busy = true → s.port = .txn x :: rest →
    ∃ t, step s = .next t ∧ t.busy = true ∧ t.eng = s.eng ∧ t.cfg = s.cfg ∧ t.inLen = s.inLen ∧
      SameOctets s t ∧ SameResults t.engineTurn s.engineTurn

/-- 10_state.md R41: a command's results depend on IN_LEN and the input octets only, not on what an
earlier command left. -/
def Obligations.CommandsAreIndependent : Prop :=
  ∀ (i : Instr) (s t : State), i ≠ .nop → s.cfg.wf = true → s.cfg = t.cfg → s.busy = false →
    t.busy = false → s.inLen = t.inLen → (∀ k < s.inLen.toNat, s.inOctet k = t.inOctet k) →
    ∃ s' t', exec i s = .next s' ∧ exec i t = .next t' ∧ SameResults s'.engineTurn t'.engineTurn

/-- 43_control.md R208: what the host reads during a command. -/
def Obligations.StatusDuringACommand : Prop :=
  ∀ s : State, Inv s → s.busy = true →
    s.perform (readTxn 0x00C .four) = .next (s.answer (.data 0x00000001)) ∧
    s.perform (readTxn 0x014 .four) = .next (s.answer (.data 0x00000000)) ∧
    s.perform (readTxn 0x010 .four) = .next (s.answer (.data (BitVec.ofNat 32 s.eng.n))) ∧
    (∀ v, ∃ t, s.perform (writeTxn 0x004 .four v) = .next t ∧ t.ie = v.getLsbD 0) ∧ s.irq = false

/-! ## Invariant -/

/-- Every step keeps the invariant (10_state.md R28, R31, R40; 20_memory.md R61 to R63; 00_scope.md R7;
43_control.md R208): canonical memory inside the buffers, bounded engine, coherent results. -/
def Obligations.StepKeepsInvariant : Prop := ∀ s t : State, Inv s → step s = .next t → Inv t

/-- The state after reset has the invariant, in the reference configuration and in every legal one. -/
def Obligations.ResetHasInvariant : Prop :=
  Inv State.reset ∧ ∀ p : Config.Params, p.wf = true → Inv (State.resetIn p)

/-! ## Reset -/

/-- 70_reset_and_hazards.md R250: the release of reset leaves the table's values (engine elements apart,
which the spec leaves unspecified), and a transaction while reset is asserted gets no answer. The
model's own here, not the rule's: that a release edge does so from every state, reset asserted or not,
and that the transaction is refused by name (log 11); that the unspecified buffers list no written
octet (log 1, log 5). -/
def Obligations.ReleaseOfResetLeavesTheResetValues : Prop :=
  (∀ (s : State) (rest : List Event), s.port = .resetRelease :: rest →
    ∃ t, step s = .next t ∧ t.cfg = s.cfg ∧ t.readReg .id = 0x42333201 ∧ t.ie = false ∧
      t.readReg .ctrl = 0 ∧ t.readReg .cmd = 0 ∧ t.busy = false ∧ t.done = false ∧ t.err = .none ∧
      t.errChar = 0 ∧ t.readReg .status = 0 ∧ t.inLen = 0 ∧ t.outLen = 0 ∧
      t.readReg .inCap = BitVec.ofNat 32 s.cfg.inBufSize ∧
      t.readReg .outCap = BitVec.ofNat 32 s.cfg.outBufSize ∧
      (∀ a, Memory.read? t.mem a = none) ∧ t.irq = false ∧ t.resetAsserted = false ∧ t.port = rest) ∧
  (∀ (s : State) (x : Txn) (rest : List Event), s.port = .txn x :: rest → s.resetAsserted = true →
    step s = .refused .transactionDuringReset)

/-- 70_reset_and_hazards.md R252: a reset while BUSY = 1 abandons the command; DONE stays 0 after reset and
irq does not pulse. The model's own here, not the rule's: that BUSY, DONE and irq are 0 from the
assertion on (log 11); that the unspecified buffers list no written octet (log 1, log 5). -/
def Obligations.ResetAbandonsARunningCommand : Prop :=
  ∀ (s : State) (rest : List Event), s.busy = true → s.port = .resetAssert :: .resetRelease :: rest →
    ∃ t u, step s = .next t ∧ step t = .next u ∧ t.busy = false ∧ t.done = false ∧ t.irq = false ∧
      u.busy = false ∧ u.done = false ∧ u.irq = false ∧ u.engineTurn = u ∧
      ∀ a, Memory.read? u.mem a = none

/-! ## Registers and the host port -/

/-- 10_state.md R20, R22, R24, R32, R33: a 32-bit read of each register answers its value and changes
nothing else. -/
def Obligations.RegisterReads : Prop :=
  ∀ s : State,
    s.perform (readTxn 0x000 .four) = .next (s.answer (.data 0x42333201)) ∧
    s.perform (readTxn 0x004 .four) = .next (s.answer (.data (if s.ie then 1 else 0))) ∧
    s.perform (readTxn 0x008 .four) = .next (s.answer (.data 0)) ∧
    s.perform (readTxn 0x00C .four) = .next (s.answer (.data s.statusWord)) ∧
    s.perform (readTxn 0x010 .four) = .next (s.answer (.data s.inLen)) ∧
    s.perform (readTxn 0x014 .four) = .next (s.answer (.data s.outLen)) ∧
    s.perform (readTxn 0x018 .four) = .next (s.answer (.data (BitVec.ofNat 32 s.cfg.inBufSize))) ∧
    s.perform (readTxn 0x01C .four) = .next (s.answer (.data (BitVec.ofNat 32 s.cfg.outBufSize)))

/-- 10_state.md R25 to R29, 60_exceptions.md R220: the fields of STATUS, its reserved bits, its codes. -/
def Obligations.StatusWordLayout : Prop :=
  (ErrCode.none.code = 0 ∧ ErrCode.invalidChar.code = 1 ∧ ErrCode.invalidUtf8.code = 2 ∧
    ErrCode.badCmd.code = 3 ∧ ErrCode.badLen.code = 4) ∧
  ∀ s : State,
    s.statusWord.getLsbD 0 = s.busy ∧ s.statusWord.getLsbD 1 = s.done ∧
    s.statusWord.extractLsb' 4 3 = s.err.code ∧ s.statusWord.extractLsb' 8 8 = s.errChar ∧
    s.statusWord.extractLsb' 2 2 = 0 ∧ s.statusWord.getLsbD 7 = false ∧
    s.statusWord.extractLsb' 16 16 = 0 ∧ (s.statusWord.extractLsb' 4 3).toNat ≤ 4 ∧
    s.statusWord.toNat = s.busy.toNat + 2 * s.done.toNat + 16 * s.err.code.toNat + 256 * s.errChar.toNat

/-- 10_state.md R34: reserved register offsets read 0 and ignore writes, without BUSERR. -/
def Obligations.ReservedOffsetsReadZero : Prop :=
  ∀ (s : State) (a : Offset), 0x020 ≤ a.toNat → a.toNat ≤ 0xFFC → a.toNat % 4 = 0 →
    s.perform (readTxn a .four) = .next (s.answer (.data 0)) ∧
    ∀ v, s.perform (writeTxn a .four v) = .next (s.answer .ok)

/-- 10_state.md R22, R31, R32, R33: writes to the read-only registers are ignored. -/
def Obligations.ReadOnlyRegistersIgnoreWrites : Prop :=
  ∀ (s : State) (v : Word),
    s.perform (writeTxn 0x000 .four v) = .next (s.answer .ok) ∧
    s.perform (writeTxn 0x014 .four v) = .next (s.answer .ok) ∧
    s.perform (writeTxn 0x018 .four v) = .next (s.answer .ok) ∧
    s.perform (writeTxn 0x01C .four v) = .next (s.answer .ok)

/-- 10_state.md R23: a CTRL write stores bit 0 only, BUSY or not, and the next transaction sees it. -/
def Obligations.CtrlWriteStoresIeOnly : Prop :=
  ∀ (s : State) (v : Word), ∃ t, s.perform (writeTxn 0x004 .four v) = .next t ∧
    t = { s.answer .ok with ie := v.getLsbD 0 } ∧
    t.perform (readTxn 0x004 .four) = .next (t.answer (.data (v &&& 1)))

/-- 10_state.md R26, R27, R29: a STATUS write with bit 1 = 1 clears DONE; no other bit has an effect. -/
def Obligations.StatusWriteClearsDoneOnly : Prop :=
  ∀ (s : State) (v : Word),
    s.perform (writeTxn 0x00C .four v) =
      .next { s.answer .ok with done := s.done && !v.getLsbD 1 }

/-- 10_state.md R30: IN_LEN takes any value while BUSY = 0 and reads it back; a write while BUSY = 1 is
ignored. -/
def Obligations.InLenWriteReadsBack : Prop :=
  (∀ (s : State) (v : Word), s.busy = false → ∃ t, s.perform (writeTxn 0x010 .four v) = .next t ∧
    t = { s.answer .ok with inLen := v } ∧
    t.perform (readTxn 0x010 .four) = .next (t.answer (.data v))) ∧
  (∀ (s : State) (v : Word), s.busy = true →
    s.perform (writeTxn 0x010 .four v) = .next (s.answer .ok))

/-- 60_exceptions.md R226: a transaction gets BUSERR exactly on the listed conditions, and then nothing
of the block changes. -/
def Obligations.BusErrExactlyOnBadAccess : Prop :=
  ∀ (s : State) (x : Txn),
    (BusErrCondition s.cfg x.addr.toNat x.size.octets → s.perform x = .next (s.answer .busErr)) ∧
    (¬BusErrCondition s.cfg x.addr.toNat x.size.octets →
      ∃ t, s.perform x = .next t ∧ (t.resp = some .ok ∨ ∃ d, t.resp = some (.data d)))

/-- 20_memory.md R69: no read has a side effect: only the response changes (and, for OUT_BUF while
BUSY = 1, the model's own draw counter). -/
def Obligations.ReadsHaveNoSideEffect : Prop :=
  ∀ (s : State) (x : Txn), x.access = .read → ∃ t, s.perform x = .next t ∧
    t = { s with resp := t.resp, draws := t.draws } ∧ (s.busy = false → t.draws = s.draws)

/-- 20_memory.md R67: buffer accesses are little-endian: a read answers the sum of its octets at their
weights, a write of IN_BUF stores the octets of its data, and a read after a write gives the value
back; every octet outside the stored ones reads as before. -/
def Obligations.BufferAccessesAreLittleEndian : Prop :=
  (∀ (s : State) (x : Txn) (a : Nat), x.access = .read →
    ((∃ i, placeOf s.cfg x = .inBuf i ∧ a = inAddr i) ∨
      (s.busy = false ∧ ∃ i, placeOf s.cfg x = .outBuf i ∧ a = outAddr i)) →
    ∃ d : Word, s.perform x = .next (s.answer (.data d)) ∧
      d.toNat = ((List.range x.size.octets).map fun k => (s.octetAt (a + k)).toNat * 2 ^ (8 * k)).sum) ∧
  ∀ (s : State) (a : Offset) (i : Nat) (z : Size) (v : Word),
    s.cfg.wf = true → s.busy = false → a.toNat = inAddr i → a.toNat % z.octets = 0 →
    i + z.octets ≤ s.cfg.inBufSize →
    ∃ t, s.perform (writeTxn a z v) = .next t ∧
      (∀ k < z.octets, t.inOctet (i + k) = v.extractLsb' (8 * k) 8) ∧
      SameOctetsOutside s t (inAddr i) (inAddr i + z.octets) ∧
      t = { s.answer .ok with mem := t.mem } ∧
      ∃ d : Word, t.perform (readTxn a z) = .next (t.answer (.data d)) ∧
        d.toNat = v.toNat % 2 ^ (8 * z.octets)

/-- 20_memory.md R63, R68: a legal IN_BUF write while BUSY = 1 and a legal OUT_BUF write at any time are
answered OK and ignored; OUT_BUF read while BUSY = 0 answers its octets, while BUSY = 1 some data. -/
def Obligations.IgnoredBufferAccesses : Prop :=
  ∀ (s : State) (x : Txn) (i : Nat),
    (placeOf s.cfg x = .inBuf i → s.busy = true → ∀ v, x.access = .write v →
      s.perform x = .next (s.answer .ok)) ∧
    (placeOf s.cfg x = .outBuf i → ∀ v, x.access = .write v → s.perform x = .next (s.answer .ok)) ∧
    (placeOf s.cfg x = .outBuf i → x.access = .read → s.busy = false →
      s.perform x = .next (s.answer (.data (s.readOctets (outAddr i) x.size.octets)))) ∧
    (placeOf s.cfg x = .outBuf i → x.access = .read → s.busy = true →
      ∃ d, s.perform x = .next (s.answer (.data d)).countDraw)

/-- 60_exceptions.md R230: irq is IE and DONE; a start drops it, a completion raises it when enabled,
clearing DONE drops it, setting IE with DONE pending raises it at once. -/
def Obligations.IrqFollowsIeAndDone : Prop :=
  ∀ s : State,
    s.irq = (s.ie && s.done) ∧ (∀ op h, (s.start op h).irq = false) ∧
    (∀ e ch len, (s.complete e ch len).irq = s.ie) ∧
    (∃ t, s.perform (writeTxn 0x00C .four 0x00000002) = .next t ∧ t.irq = false) ∧
    (∃ t, s.perform (writeTxn 0x004 .four 0x00000001) = .next t ∧ t.irq = s.done) ∧
    (∃ t, s.perform (writeTxn 0x004 .four 0x00000000) = .next t ∧ t.irq = false ∧ t.done = s.done)

/-- 20_memory.md R60, 00_scope.md R6: the 0x40000 system addresses from BASE on select the block, with
the block-relative offset as their distance from BASE; no other address does. -/
def Obligations.BaseSelectsTheBlock : Prop :=
  ∀ p : Config.Params, p.wf = true →
    (∀ a : Offset, selectedOffset p (p.base + a.toNat) = some a) ∧
    (∀ sysAddr, sysAddr < p.base ∨ p.base + 0x40000 ≤ sysAddr → selectedOffset p sysAddr = none)

/-- 00_scope.md R6: no rule depends on BUS_PROTOCOL, nor on RESET_KIND beyond which level of the pin
asserts reset: blocks that differ in these parameters alone take the same steps. -/
def Obligations.PhysicalParametersDoNotMatter : Prop :=
  (∀ (s : State) (b : Config.BusProtocol) (k : Config.ResetKind),
    (∀ t, step s = .next t → step (withPhysical s b k) = .next (withPhysical t b k)) ∧
    (∀ r, step s = .refused r → step (withPhysical s b k) = .refused r)) ∧
  (∀ (p : Config.Params) (pin : Bool),
    resetEvent p pin = if pin = decide (p.resetKind.polarity = .activeHigh) then .resetAssert
      else .resetRelease)

/-! ## Which event changes what -/

/-- 10_state.md R25: BUSY is 0 at reset, set only by the start of an ENCODE or DECODE command and cleared
only by its completion or by reset. -/
def Obligations.WhatChangesBusy : Prop :=
  State.reset.busy = false ∧
  ∀ s t : State, step s = .next t →
    (s.busy = false → t.busy = true → ∃ w i, CmdWriteIsNext s w ∧ decode w = .command i ∧ i ≠ .nop ∧
      s.inLen.toNat ≤ s.cfg.inBufSize) ∧
    (s.busy = true → t.busy = false → (EngineIsNext s ∧ t.done = true) ∨ ResetIsNext s)

/-- 10_state.md R26: DONE is 0 at reset, set by every completion and only there, and cleared by a start, by
a STATUS write with bit 1 = 1, and by reset, and by nothing else. That each of the two reset edges
clears it is the model's own (log 11). -/
def Obligations.WhatChangesDone : Prop :=
  State.reset.done = false ∧
  ∀ s t : State, step s = .next t →
    (s.done = false → t.done = true →
      (s.busy = true ∧ EngineIsNext s) ∨
      (s.busy = false ∧ ∃ w, CmdWriteIsNext s w ∧
        ((∃ why, decode w = .illegal why) ∨ s.cfg.inBufSize < s.inLen.toNat))) ∧
    (s.done = true → t.done = false →
      (s.busy = false ∧ t.busy = true ∧ ∃ w, CmdWriteIsNext s w) ∨
      (∃ v rest, s.port = .txn (writeTxn 0x00C .four v) :: rest ∧ v.getLsbD 1 = true) ∨
      ResetIsNext s) ∧
    (s.busy = true → EngineIsNext s → t.done = true) ∧
    (∀ w why, s.busy = false → CmdWriteIsNext s w → decode w = .illegal why → t.done = true) ∧
    (∀ w i, s.busy = false → CmdWriteIsNext s w → decode w = .command i → i ≠ .nop →
      t.done = decide (s.cfg.inBufSize < s.inLen.toNat)) ∧
    (∀ v rest, s.port = .txn (writeTxn 0x00C .four v) :: rest → t.done = (s.done && !v.getLsbD 1)) ∧
    (ResetIsNext s → t.done = false)

/-- 10_state.md R27, R28, R31: ERR, ERRCHAR and OUT_LEN change only when a command completes or starts,
and by reset. A CMD write of NOP neither completes nor starts one (43_control.md R207). -/
def Obligations.WhatChangesErr : Prop :=
  ∀ s t : State, step s = .next t → (t.err ≠ s.err ∨ t.errChar ≠ s.errChar ∨ t.outLen ≠ s.outLen) →
    (s.busy = true ∧ EngineIsNext s) ∨
    (s.busy = false ∧ ∃ w, CmdWriteIsNext s w ∧ decode w ≠ .command .nop) ∨ ResetIsNext s

/-- 60_exceptions.md R226, R231, 70_reset_and_hazards.md R250: nothing stops the machine but a
transaction while reset is asserted, so a run without a reset assertion never stops. -/
def Obligations.OnlyATransactionDuringResetStops : Prop :=
  (∀ s : State, (∃ t, step s = .next t) ∨
    (step s = .refused .transactionDuringReset ∧ s.resetAsserted = true ∧
      ∃ x rest, s.port = .txn x :: rest)) ∧
  (∀ (k : Nat) (s : State), s.resetAsserted = false → (∀ e ∈ s.port, e ≠ .resetAssert) → SafeRun k s)

/-- 10_state.md R23, R30, R32, R33: IE changes only by a CTRL write or reset, IN_LEN only by an IN_LEN
write while BUSY = 0 or reset, and the configuration never. -/
def Obligations.WhatChangesIeAndInLen : Prop :=
  ∀ s t : State, step s = .next t →
    t.cfg = s.cfg ∧
    (t.ie ≠ s.ie → (∃ v rest, s.port = .txn (writeTxn 0x004 .four v) :: rest) ∨ ResetIsNext s) ∧
    (t.inLen ≠ s.inLen →
      (s.busy = false ∧ ∃ v rest, s.port = .txn (writeTxn 0x010 .four v) :: rest) ∨ ResetIsNext s)

/-- 20_memory.md R62, R63, R68: an IN_BUF octet changes only by a host write that covers it while
BUSY = 0, an OUT_BUF octet only by the engine; or by reset. -/
def Obligations.WhatChangesTheBuffers : Prop :=
  ∀ (s t : State) (a : Nat), step s = .next t → t.octetAt a ≠ s.octetAt a →
    ResetIsNext s ∨
    (a < outAddr 0 ∧ s.busy = false ∧ ∃ x v rest, s.port = .txn x :: rest ∧ x.access = .write v ∧
      inAddr 0 ≤ x.addr.toNat ∧ x.addr.toNat ≤ a ∧ a < x.addr.toNat + x.size.octets) ∨
    (outAddr 0 ≤ a ∧ s.busy = true ∧ EngineIsNext s)

end
end

