-- ==== Sys2Proof/Laws/State.lean ====
section
/-! SUPPORT. What each named update of State does to each field: one lemma per field per update, true
by rfl, so that no proof unfolds a record update; and the field equations of the reset state. -/

namespace Sys2Proof.Machine

variable (s : State)

/-! ### State.answer -/

@[simp] theorem State.answer_cfg (r : Response) : (s.answer r).cfg = s.cfg := rfl
@[simp] theorem State.answer_ie (r : Response) : (s.answer r).ie = s.ie := rfl
@[simp] theorem State.answer_busy (r : Response) : (s.answer r).busy = s.busy := rfl
@[simp] theorem State.answer_done (r : Response) : (s.answer r).done = s.done := rfl
@[simp] theorem State.answer_err (r : Response) : (s.answer r).err = s.err := rfl
@[simp] theorem State.answer_errChar (r : Response) : (s.answer r).errChar = s.errChar := rfl
@[simp] theorem State.answer_inLen (r : Response) : (s.answer r).inLen = s.inLen := rfl
@[simp] theorem State.answer_outLen (r : Response) : (s.answer r).outLen = s.outLen := rfl
@[simp] theorem State.answer_mem (r : Response) : (s.answer r).mem = s.mem := rfl
@[simp] theorem State.answer_eng (r : Response) : (s.answer r).eng = s.eng := rfl
@[simp] theorem State.answer_resetAsserted (r : Response) :
    (s.answer r).resetAsserted = s.resetAsserted := rfl
@[simp] theorem State.answer_resp (r : Response) : (s.answer r).resp = some r := rfl
@[simp] theorem State.answer_port (r : Response) : (s.answer r).port = s.port := rfl
@[simp] theorem State.answer_epoch (r : Response) : (s.answer r).epoch = s.epoch := rfl
@[simp] theorem State.answer_draws (r : Response) : (s.answer r).draws = s.draws := rfl

/-! ### State.withPort -/

@[simp] theorem State.withPort_cfg (rest : List Event) : (s.withPort rest).cfg = s.cfg := rfl
@[simp] theorem State.withPort_ie (rest : List Event) : (s.withPort rest).ie = s.ie := rfl
@[simp] theorem State.withPort_busy (rest : List Event) : (s.withPort rest).busy = s.busy := rfl
@[simp] theorem State.withPort_done (rest : List Event) : (s.withPort rest).done = s.done := rfl
@[simp] theorem State.withPort_err (rest : List Event) : (s.withPort rest).err = s.err := rfl
@[simp] theorem State.withPort_errChar (rest : List Event) : (s.withPort rest).errChar = s.errChar := rfl
@[simp] theorem State.withPort_inLen (rest : List Event) : (s.withPort rest).inLen = s.inLen := rfl
@[simp] theorem State.withPort_outLen (rest : List Event) : (s.withPort rest).outLen = s.outLen := rfl
@[simp] theorem State.withPort_mem (rest : List Event) : (s.withPort rest).mem = s.mem := rfl
@[simp] theorem State.withPort_eng (rest : List Event) : (s.withPort rest).eng = s.eng := rfl
@[simp] theorem State.withPort_resetAsserted (rest : List Event) :
    (s.withPort rest).resetAsserted = s.resetAsserted := rfl
@[simp] theorem State.withPort_resp (rest : List Event) : (s.withPort rest).resp = s.resp := rfl
@[simp] theorem State.withPort_port (rest : List Event) : (s.withPort rest).port = rest := rfl
@[simp] theorem State.withPort_epoch (rest : List Event) : (s.withPort rest).epoch = s.epoch := rfl
@[simp] theorem State.withPort_draws (rest : List Event) : (s.withPort rest).draws = s.draws := rfl

/-! ### State.countDraw -/

@[simp] theorem State.countDraw_cfg : (s.countDraw).cfg = s.cfg := rfl
@[simp] theorem State.countDraw_ie : (s.countDraw).ie = s.ie := rfl
@[simp] theorem State.countDraw_busy : (s.countDraw).busy = s.busy := rfl
@[simp] theorem State.countDraw_done : (s.countDraw).done = s.done := rfl
@[simp] theorem State.countDraw_err : (s.countDraw).err = s.err := rfl
@[simp] theorem State.countDraw_errChar : (s.countDraw).errChar = s.errChar := rfl
@[simp] theorem State.countDraw_inLen : (s.countDraw).inLen = s.inLen := rfl
@[simp] theorem State.countDraw_outLen : (s.countDraw).outLen = s.outLen := rfl
@[simp] theorem State.countDraw_mem : (s.countDraw).mem = s.mem := rfl
@[simp] theorem State.countDraw_eng : (s.countDraw).eng = s.eng := rfl
@[simp] theorem State.countDraw_resetAsserted : (s.countDraw).resetAsserted = s.resetAsserted := rfl
@[simp] theorem State.countDraw_resp : (s.countDraw).resp = s.resp := rfl
@[simp] theorem State.countDraw_port : (s.countDraw).port = s.port := rfl
@[simp] theorem State.countDraw_epoch : (s.countDraw).epoch = s.epoch := rfl
@[simp] theorem State.countDraw_draws : (s.countDraw).draws = s.draws + 1 := rfl

/-! ### State.clearDone -/

@[simp] theorem State.clearDone_cfg : (s.clearDone).cfg = s.cfg := rfl
@[simp] theorem State.clearDone_ie : (s.clearDone).ie = s.ie := rfl
@[simp] theorem State.clearDone_busy : (s.clearDone).busy = s.busy := rfl
@[simp] theorem State.clearDone_done : (s.clearDone).done = false := rfl
@[simp] theorem State.clearDone_err : (s.clearDone).err = s.err := rfl
@[simp] theorem State.clearDone_errChar : (s.clearDone).errChar = s.errChar := rfl
@[simp] theorem State.clearDone_inLen : (s.clearDone).inLen = s.inLen := rfl
@[simp] theorem State.clearDone_outLen : (s.clearDone).outLen = s.outLen := rfl
@[simp] theorem State.clearDone_mem : (s.clearDone).mem = s.mem := rfl
@[simp] theorem State.clearDone_eng : (s.clearDone).eng = s.eng := rfl
@[simp] theorem State.clearDone_resetAsserted : (s.clearDone).resetAsserted = s.resetAsserted := rfl
@[simp] theorem State.clearDone_resp : (s.clearDone).resp = s.resp := rfl
@[simp] theorem State.clearDone_port : (s.clearDone).port = s.port := rfl
@[simp] theorem State.clearDone_epoch : (s.clearDone).epoch = s.epoch := rfl
@[simp] theorem State.clearDone_draws : (s.clearDone).draws = s.draws := rfl

/-! ### State.writeCtrl -/

@[simp] theorem State.writeCtrl_cfg (v : Word) : (s.writeCtrl v).cfg = s.cfg := rfl
@[simp] theorem State.writeCtrl_ie (v : Word) : (s.writeCtrl v).ie = v.getLsbD 0 := rfl
@[simp] theorem State.writeCtrl_busy (v : Word) : (s.writeCtrl v).busy = s.busy := rfl
@[simp] theorem State.writeCtrl_done (v : Word) : (s.writeCtrl v).done = s.done := rfl
@[simp] theorem State.writeCtrl_err (v : Word) : (s.writeCtrl v).err = s.err := rfl
@[simp] theorem State.writeCtrl_errChar (v : Word) : (s.writeCtrl v).errChar = s.errChar := rfl
@[simp] theorem State.writeCtrl_inLen (v : Word) : (s.writeCtrl v).inLen = s.inLen := rfl
@[simp] theorem State.writeCtrl_outLen (v : Word) : (s.writeCtrl v).outLen = s.outLen := rfl
@[simp] theorem State.writeCtrl_mem (v : Word) : (s.writeCtrl v).mem = s.mem := rfl
@[simp] theorem State.writeCtrl_eng (v : Word) : (s.writeCtrl v).eng = s.eng := rfl
@[simp] theorem State.writeCtrl_resetAsserted (v : Word) :
    (s.writeCtrl v).resetAsserted = s.resetAsserted := rfl
@[simp] theorem State.writeCtrl_resp (v : Word) : (s.writeCtrl v).resp = s.resp := rfl
@[simp] theorem State.writeCtrl_port (v : Word) : (s.writeCtrl v).port = s.port := rfl
@[simp] theorem State.writeCtrl_epoch (v : Word) : (s.writeCtrl v).epoch = s.epoch := rfl
@[simp] theorem State.writeCtrl_draws (v : Word) : (s.writeCtrl v).draws = s.draws := rfl

/-! ### State.start -/

@[simp] theorem State.start_cfg (op : EngineOp) (h : Alphabet) : (s.start op h).cfg = s.cfg := rfl
@[simp] theorem State.start_ie (op : EngineOp) (h : Alphabet) : (s.start op h).ie = s.ie := rfl
@[simp] theorem State.start_busy (op : EngineOp) (h : Alphabet) : (s.start op h).busy = true := rfl
@[simp] theorem State.start_done (op : EngineOp) (h : Alphabet) : (s.start op h).done = false := rfl
@[simp] theorem State.start_err (op : EngineOp) (h : Alphabet) : (s.start op h).err = .none := rfl
@[simp] theorem State.start_errChar (op : EngineOp) (h : Alphabet) : (s.start op h).errChar = 0 := rfl
@[simp] theorem State.start_inLen (op : EngineOp) (h : Alphabet) : (s.start op h).inLen = s.inLen := rfl
@[simp] theorem State.start_outLen (op : EngineOp) (h : Alphabet) : (s.start op h).outLen = 0 := rfl
@[simp] theorem State.start_mem (op : EngineOp) (h : Alphabet) : (s.start op h).mem = s.mem := rfl
@[simp] theorem State.start_eng (op : EngineOp) (h : Alphabet) :
    (s.start op h).eng = Engine.started op h s.inLen.toNat := rfl
@[simp] theorem State.start_resetAsserted (op : EngineOp) (h : Alphabet) :
    (s.start op h).resetAsserted = s.resetAsserted := rfl
@[simp] theorem State.start_resp (op : EngineOp) (h : Alphabet) : (s.start op h).resp = s.resp := rfl
@[simp] theorem State.start_port (op : EngineOp) (h : Alphabet) : (s.start op h).port = s.port := rfl
@[simp] theorem State.start_epoch (op : EngineOp) (h : Alphabet) : (s.start op h).epoch = s.epoch := rfl
@[simp] theorem State.start_draws (op : EngineOp) (h : Alphabet) : (s.start op h).draws = s.draws := rfl

/-! ### State.complete -/

@[simp] theorem State.complete_cfg (e : ErrCode) (ch : Byte) (len : Nat) :
    (s.complete e ch len).cfg = s.cfg := rfl
@[simp] theorem State.complete_ie (e : ErrCode) (ch : Byte) (len : Nat) :
    (s.complete e ch len).ie = s.ie := rfl
@[simp] theorem State.complete_busy (e : ErrCode) (ch : Byte) (len : Nat) :
    (s.complete e ch len).busy = false := rfl
@[simp] theorem State.complete_done (e : ErrCode) (ch : Byte) (len : Nat) :
    (s.complete e ch len).done = true := rfl
@[simp] theorem State.complete_err (e : ErrCode) (ch : Byte) (len : Nat) :
    (s.complete e ch len).err = e := rfl
@[simp] theorem State.complete_errChar (e : ErrCode) (ch : Byte) (len : Nat) :
    (s.complete e ch len).errChar = ch := rfl
@[simp] theorem State.complete_inLen (e : ErrCode) (ch : Byte) (len : Nat) :
    (s.complete e ch len).inLen = s.inLen := rfl
@[simp] theorem State.complete_outLen (e : ErrCode) (ch : Byte) (len : Nat) :
    (s.complete e ch len).outLen = if e = .none then BitVec.ofNat 32 len else 0 := rfl
@[simp] theorem State.complete_mem (e : ErrCode) (ch : Byte) (len : Nat) :
    (s.complete e ch len).mem = s.mem := rfl
@[simp] theorem State.complete_eng (e : ErrCode) (ch : Byte) (len : Nat) :
    (s.complete e ch len).eng = s.eng := rfl
@[simp] theorem State.complete_resetAsserted (e : ErrCode) (ch : Byte) (len : Nat) :
    (s.complete e ch len).resetAsserted = s.resetAsserted := rfl
@[simp] theorem State.complete_resp (e : ErrCode) (ch : Byte) (len : Nat) :
    (s.complete e ch len).resp = s.resp := rfl
@[simp] theorem State.complete_port (e : ErrCode) (ch : Byte) (len : Nat) :
    (s.complete e ch len).port = s.port := rfl
@[simp] theorem State.complete_epoch (e : ErrCode) (ch : Byte) (len : Nat) :
    (s.complete e ch len).epoch = s.epoch := rfl
@[simp] theorem State.complete_draws (e : ErrCode) (ch : Byte) (len : Nat) :
    (s.complete e ch len).draws = s.draws := rfl

/-! ### State.memWriteOut -/

@[simp] theorem State.memWriteOut_cfg (a : Nat) (v : Byte) : (s.memWriteOut a v).cfg = s.cfg := rfl
@[simp] theorem State.memWriteOut_ie (a : Nat) (v : Byte) : (s.memWriteOut a v).ie = s.ie := rfl
@[simp] theorem State.memWriteOut_busy (a : Nat) (v : Byte) : (s.memWriteOut a v).busy = s.busy := rfl
@[simp] theorem State.memWriteOut_done (a : Nat) (v : Byte) : (s.memWriteOut a v).done = s.done := rfl
@[simp] theorem State.memWriteOut_err (a : Nat) (v : Byte) : (s.memWriteOut a v).err = s.err := rfl
@[simp] theorem State.memWriteOut_errChar (a : Nat) (v : Byte) :
    (s.memWriteOut a v).errChar = s.errChar := rfl
@[simp] theorem State.memWriteOut_inLen (a : Nat) (v : Byte) : (s.memWriteOut a v).inLen = s.inLen := rfl
@[simp] theorem State.memWriteOut_outLen (a : Nat) (v : Byte) : (s.memWriteOut a v).outLen = s.outLen := rfl
@[simp] theorem State.memWriteOut_mem (a : Nat) (v : Byte) :
    (s.memWriteOut a v).mem = Memory.write s.mem (outAddr a) v := rfl
@[simp] theorem State.memWriteOut_eng (a : Nat) (v : Byte) : (s.memWriteOut a v).eng = s.eng := rfl
@[simp] theorem State.memWriteOut_resetAsserted (a : Nat) (v : Byte) :
    (s.memWriteOut a v).resetAsserted = s.resetAsserted := rfl
@[simp] theorem State.memWriteOut_resp (a : Nat) (v : Byte) : (s.memWriteOut a v).resp = s.resp := rfl
@[simp] theorem State.memWriteOut_port (a : Nat) (v : Byte) : (s.memWriteOut a v).port = s.port := rfl
@[simp] theorem State.memWriteOut_epoch (a : Nat) (v : Byte) : (s.memWriteOut a v).epoch = s.epoch := rfl
@[simp] theorem State.memWriteOut_draws (a : Nat) (v : Byte) : (s.memWriteOut a v).draws = s.draws := rfl

/-! ### State.writeOctets -/

@[simp] theorem State.writeOctets_cfg (a n : Nat) (v : Word) : (s.writeOctets a n v).cfg = s.cfg := rfl
@[simp] theorem State.writeOctets_ie (a n : Nat) (v : Word) : (s.writeOctets a n v).ie = s.ie := rfl
@[simp] theorem State.writeOctets_busy (a n : Nat) (v : Word) : (s.writeOctets a n v).busy = s.busy := rfl
@[simp] theorem State.writeOctets_done (a n : Nat) (v : Word) : (s.writeOctets a n v).done = s.done := rfl
@[simp] theorem State.writeOctets_err (a n : Nat) (v : Word) : (s.writeOctets a n v).err = s.err := rfl
@[simp] theorem State.writeOctets_errChar (a n : Nat) (v : Word) :
    (s.writeOctets a n v).errChar = s.errChar := rfl
@[simp] theorem State.writeOctets_inLen (a n : Nat) (v : Word) : (s.writeOctets a n v).inLen = s.inLen := rfl
@[simp] theorem State.writeOctets_outLen (a n : Nat) (v : Word) :
    (s.writeOctets a n v).outLen = s.outLen := rfl
@[simp] theorem State.writeOctets_mem (a n : Nat) (v : Word) :
    (s.writeOctets a n v).mem = Memory.writeRange (fun b => octetOfWord v (b - a)) a n s.mem := rfl
@[simp] theorem State.writeOctets_eng (a n : Nat) (v : Word) : (s.writeOctets a n v).eng = s.eng := rfl
@[simp] theorem State.writeOctets_resetAsserted (a n : Nat) (v : Word) :
    (s.writeOctets a n v).resetAsserted = s.resetAsserted := rfl
@[simp] theorem State.writeOctets_resp (a n : Nat) (v : Word) : (s.writeOctets a n v).resp = s.resp := rfl
@[simp] theorem State.writeOctets_port (a n : Nat) (v : Word) : (s.writeOctets a n v).port = s.port := rfl
@[simp] theorem State.writeOctets_epoch (a n : Nat) (v : Word) : (s.writeOctets a n v).epoch = s.epoch := rfl
@[simp] theorem State.writeOctets_draws (a n : Nat) (v : Word) : (s.writeOctets a n v).draws = s.draws := rfl

/-! ### State.unspecifyOutput -/

@[simp] theorem State.unspecifyOutput_cfg : (s.unspecifyOutput).cfg = s.cfg := rfl
@[simp] theorem State.unspecifyOutput_ie : (s.unspecifyOutput).ie = s.ie := rfl
@[simp] theorem State.unspecifyOutput_busy : (s.unspecifyOutput).busy = s.busy := rfl
@[simp] theorem State.unspecifyOutput_done : (s.unspecifyOutput).done = s.done := rfl
@[simp] theorem State.unspecifyOutput_err : (s.unspecifyOutput).err = s.err := rfl
@[simp] theorem State.unspecifyOutput_errChar : (s.unspecifyOutput).errChar = s.errChar := rfl
@[simp] theorem State.unspecifyOutput_inLen : (s.unspecifyOutput).inLen = s.inLen := rfl
@[simp] theorem State.unspecifyOutput_outLen : (s.unspecifyOutput).outLen = s.outLen := rfl
@[simp] theorem State.unspecifyOutput_mem :
    (s.unspecifyOutput).mem = Memory.writeRange (Config.freeOctet s.draws) (outAddr 0) (5 * s.eng.n / 8) s.mem := rfl
@[simp] theorem State.unspecifyOutput_eng : (s.unspecifyOutput).eng = s.eng := rfl
@[simp] theorem State.unspecifyOutput_resetAsserted :
    (s.unspecifyOutput).resetAsserted = s.resetAsserted := rfl
@[simp] theorem State.unspecifyOutput_resp : (s.unspecifyOutput).resp = s.resp := rfl
@[simp] theorem State.unspecifyOutput_port : (s.unspecifyOutput).port = s.port := rfl
@[simp] theorem State.unspecifyOutput_epoch : (s.unspecifyOutput).epoch = s.epoch := rfl
@[simp] theorem State.unspecifyOutput_draws : (s.unspecifyOutput).draws = s.draws + 1 := rfl

/-! ### State.enterReset -/

@[simp] theorem State.enterReset_cfg : (s.enterReset).cfg = s.cfg := rfl
@[simp] theorem State.enterReset_ie : (s.enterReset).ie = false := rfl
@[simp] theorem State.enterReset_busy : (s.enterReset).busy = false := rfl
@[simp] theorem State.enterReset_done : (s.enterReset).done = false := rfl
@[simp] theorem State.enterReset_err : (s.enterReset).err = .none := rfl
@[simp] theorem State.enterReset_errChar : (s.enterReset).errChar = 0 := rfl
@[simp] theorem State.enterReset_inLen : (s.enterReset).inLen = 0 := rfl
@[simp] theorem State.enterReset_outLen : (s.enterReset).outLen = 0 := rfl
@[simp] theorem State.enterReset_mem : (s.enterReset).mem = [] := rfl
@[simp] theorem State.enterReset_eng : (s.enterReset).eng = Engine.atReset := rfl
@[simp] theorem State.enterReset_resetAsserted : (s.enterReset).resetAsserted = true := rfl
@[simp] theorem State.enterReset_resp : (s.enterReset).resp = none := rfl
@[simp] theorem State.enterReset_port : (s.enterReset).port = s.port := rfl
@[simp] theorem State.enterReset_epoch : (s.enterReset).epoch = s.draws := rfl
@[simp] theorem State.enterReset_draws : (s.enterReset).draws = s.draws + 1 := rfl

/-! ### State.leaveReset -/

@[simp] theorem State.leaveReset_cfg : (s.leaveReset).cfg = s.cfg := rfl
@[simp] theorem State.leaveReset_ie : (s.leaveReset).ie = false := rfl
@[simp] theorem State.leaveReset_busy : (s.leaveReset).busy = false := rfl
@[simp] theorem State.leaveReset_done : (s.leaveReset).done = false := rfl
@[simp] theorem State.leaveReset_err : (s.leaveReset).err = .none := rfl
@[simp] theorem State.leaveReset_errChar : (s.leaveReset).errChar = 0 := rfl
@[simp] theorem State.leaveReset_inLen : (s.leaveReset).inLen = 0 := rfl
@[simp] theorem State.leaveReset_outLen : (s.leaveReset).outLen = 0 := rfl
@[simp] theorem State.leaveReset_mem : (s.leaveReset).mem = [] := rfl
@[simp] theorem State.leaveReset_eng : (s.leaveReset).eng = Engine.atReset := rfl
@[simp] theorem State.leaveReset_resetAsserted : (s.leaveReset).resetAsserted = false := rfl
@[simp] theorem State.leaveReset_resp : (s.leaveReset).resp = none := rfl
@[simp] theorem State.leaveReset_port : (s.leaveReset).port = s.port := rfl
@[simp] theorem State.leaveReset_epoch : (s.leaveReset).epoch = s.draws := rfl
@[simp] theorem State.leaveReset_draws : (s.leaveReset).draws = s.draws + 1 := rfl

/-! ### State.emit -/

@[simp] theorem State.emit_cfg (o : Byte) : (s.emit o).cfg = s.cfg := rfl
@[simp] theorem State.emit_ie (o : Byte) : (s.emit o).ie = s.ie := rfl
@[simp] theorem State.emit_busy (o : Byte) : (s.emit o).busy = s.busy := rfl
@[simp] theorem State.emit_done (o : Byte) : (s.emit o).done = s.done := rfl
@[simp] theorem State.emit_err (o : Byte) : (s.emit o).err = s.err := rfl
@[simp] theorem State.emit_errChar (o : Byte) : (s.emit o).errChar = s.errChar := rfl
@[simp] theorem State.emit_inLen (o : Byte) : (s.emit o).inLen = s.inLen := rfl
@[simp] theorem State.emit_outLen (o : Byte) : (s.emit o).outLen = s.outLen := rfl
@[simp] theorem State.emit_mem (o : Byte) : (s.emit o).mem = Memory.write s.mem (outAddr s.eng.wr) o := rfl
@[simp] theorem State.emit_eng (o : Byte) :
    (s.emit o).eng = { s.eng with wr := s.eng.wr + 1, symcnt := s.eng.symcnt + 1 } := rfl
@[simp] theorem State.emit_resetAsserted (o : Byte) : (s.emit o).resetAsserted = s.resetAsserted := rfl
@[simp] theorem State.emit_resp (o : Byte) : (s.emit o).resp = s.resp := rfl
@[simp] theorem State.emit_port (o : Byte) : (s.emit o).port = s.port := rfl
@[simp] theorem State.emit_epoch (o : Byte) : (s.emit o).epoch = s.epoch := rfl
@[simp] theorem State.emit_draws (o : Byte) : (s.emit o).draws = s.draws := rfl

/-! ### State.takeOctet -/

@[simp] theorem State.takeOctet_cfg : (s.takeOctet).cfg = s.cfg := rfl
@[simp] theorem State.takeOctet_ie : (s.takeOctet).ie = s.ie := rfl
@[simp] theorem State.takeOctet_busy : (s.takeOctet).busy = s.busy := rfl
@[simp] theorem State.takeOctet_done : (s.takeOctet).done = s.done := rfl
@[simp] theorem State.takeOctet_err : (s.takeOctet).err = s.err := rfl
@[simp] theorem State.takeOctet_errChar : (s.takeOctet).errChar = s.errChar := rfl
@[simp] theorem State.takeOctet_inLen : (s.takeOctet).inLen = s.inLen := rfl
@[simp] theorem State.takeOctet_outLen : (s.takeOctet).outLen = s.outLen := rfl
@[simp] theorem State.takeOctet_mem : (s.takeOctet).mem = s.mem := rfl
@[simp] theorem State.takeOctet_eng :
    (s.takeOctet).eng = { s.eng with rd := s.eng.rd + 1, acc := (s.eng.acc <<< 8) ||| (s.inOctet s.eng.rd).setWidth 12, nb := s.eng.nb + 8 } := rfl
@[simp] theorem State.takeOctet_resetAsserted : (s.takeOctet).resetAsserted = s.resetAsserted := rfl
@[simp] theorem State.takeOctet_resp : (s.takeOctet).resp = s.resp := rfl
@[simp] theorem State.takeOctet_port : (s.takeOctet).port = s.port := rfl
@[simp] theorem State.takeOctet_epoch : (s.takeOctet).epoch = s.epoch := rfl
@[simp] theorem State.takeOctet_draws : (s.takeOctet).draws = s.draws := rfl

/-! ### State.pushSymbol -/

@[simp] theorem State.pushSymbol_cfg (v : BitVec 5) : (s.pushSymbol v).cfg = s.cfg := rfl
@[simp] theorem State.pushSymbol_ie (v : BitVec 5) : (s.pushSymbol v).ie = s.ie := rfl
@[simp] theorem State.pushSymbol_busy (v : BitVec 5) : (s.pushSymbol v).busy = s.busy := rfl
@[simp] theorem State.pushSymbol_done (v : BitVec 5) : (s.pushSymbol v).done = s.done := rfl
@[simp] theorem State.pushSymbol_err (v : BitVec 5) : (s.pushSymbol v).err = s.err := rfl
@[simp] theorem State.pushSymbol_errChar (v : BitVec 5) : (s.pushSymbol v).errChar = s.errChar := rfl
@[simp] theorem State.pushSymbol_inLen (v : BitVec 5) : (s.pushSymbol v).inLen = s.inLen := rfl
@[simp] theorem State.pushSymbol_outLen (v : BitVec 5) : (s.pushSymbol v).outLen = s.outLen := rfl
@[simp] theorem State.pushSymbol_mem (v : BitVec 5) : (s.pushSymbol v).mem = s.mem := rfl
@[simp] theorem State.pushSymbol_eng (v : BitVec 5) :
    (s.pushSymbol v).eng = { s.eng with acc := (s.eng.acc <<< 5) ||| v.setWidth 12, nb := s.eng.nb + 5 } := rfl
@[simp] theorem State.pushSymbol_resetAsserted (v : BitVec 5) :
    (s.pushSymbol v).resetAsserted = s.resetAsserted := rfl
@[simp] theorem State.pushSymbol_resp (v : BitVec 5) : (s.pushSymbol v).resp = s.resp := rfl
@[simp] theorem State.pushSymbol_port (v : BitVec 5) : (s.pushSymbol v).port = s.port := rfl
@[simp] theorem State.pushSymbol_epoch (v : BitVec 5) : (s.pushSymbol v).epoch = s.epoch := rfl
@[simp] theorem State.pushSymbol_draws (v : BitVec 5) : (s.pushSymbol v).draws = s.draws := rfl

/-! ### State.outOctetStep -/

@[simp] theorem State.outOctetStep_cfg (o : Byte) : (s.outOctetStep o).cfg = s.cfg := rfl
@[simp] theorem State.outOctetStep_ie (o : Byte) : (s.outOctetStep o).ie = s.ie := rfl
@[simp] theorem State.outOctetStep_busy (o : Byte) : (s.outOctetStep o).busy = s.busy := rfl
@[simp] theorem State.outOctetStep_done (o : Byte) : (s.outOctetStep o).done = s.done := rfl
@[simp] theorem State.outOctetStep_err (o : Byte) : (s.outOctetStep o).err = s.err := rfl
@[simp] theorem State.outOctetStep_errChar (o : Byte) : (s.outOctetStep o).errChar = s.errChar := rfl
@[simp] theorem State.outOctetStep_inLen (o : Byte) : (s.outOctetStep o).inLen = s.inLen := rfl
@[simp] theorem State.outOctetStep_outLen (o : Byte) : (s.outOctetStep o).outLen = s.outLen := rfl
@[simp] theorem State.outOctetStep_mem (o : Byte) :
    (s.outOctetStep o).mem = Memory.write s.mem (outAddr s.eng.wr) o := rfl
@[simp] theorem State.outOctetStep_eng (o : Byte) :
    (s.outOctetStep o).eng = { s.eng with wr := s.eng.wr + 1, u8 := (u8Step s.eng.checker o).1, u8Bad := (u8Step s.eng.checker o).2 } := rfl
@[simp] theorem State.outOctetStep_resetAsserted (o : Byte) :
    (s.outOctetStep o).resetAsserted = s.resetAsserted := rfl
@[simp] theorem State.outOctetStep_resp (o : Byte) : (s.outOctetStep o).resp = s.resp := rfl
@[simp] theorem State.outOctetStep_port (o : Byte) : (s.outOctetStep o).port = s.port := rfl
@[simp] theorem State.outOctetStep_epoch (o : Byte) : (s.outOctetStep o).epoch = s.epoch := rfl
@[simp] theorem State.outOctetStep_draws (o : Byte) : (s.outOctetStep o).draws = s.draws := rfl

/-! ### State.nextOctet -/

@[simp] theorem State.nextOctet_cfg : (s.nextOctet).cfg = s.cfg := rfl
@[simp] theorem State.nextOctet_ie : (s.nextOctet).ie = s.ie := rfl
@[simp] theorem State.nextOctet_busy : (s.nextOctet).busy = s.busy := rfl
@[simp] theorem State.nextOctet_done : (s.nextOctet).done = s.done := rfl
@[simp] theorem State.nextOctet_err : (s.nextOctet).err = s.err := rfl
@[simp] theorem State.nextOctet_errChar : (s.nextOctet).errChar = s.errChar := rfl
@[simp] theorem State.nextOctet_inLen : (s.nextOctet).inLen = s.inLen := rfl
@[simp] theorem State.nextOctet_outLen : (s.nextOctet).outLen = s.outLen := rfl
@[simp] theorem State.nextOctet_mem : (s.nextOctet).mem = s.mem := rfl
@[simp] theorem State.nextOctet_eng : (s.nextOctet).eng = { s.eng with rd := s.eng.rd + 1 } := rfl
@[simp] theorem State.nextOctet_resetAsserted : (s.nextOctet).resetAsserted = s.resetAsserted := rfl
@[simp] theorem State.nextOctet_resp : (s.nextOctet).resp = s.resp := rfl
@[simp] theorem State.nextOctet_port : (s.nextOctet).port = s.port := rfl
@[simp] theorem State.nextOctet_epoch : (s.nextOctet).epoch = s.epoch := rfl
@[simp] theorem State.nextOctet_draws : (s.nextOctet).draws = s.draws := rfl

/-! ### State.seePad -/

@[simp] theorem State.seePad_cfg : (s.seePad).cfg = s.cfg := rfl
@[simp] theorem State.seePad_ie : (s.seePad).ie = s.ie := rfl
@[simp] theorem State.seePad_busy : (s.seePad).busy = s.busy := rfl
@[simp] theorem State.seePad_done : (s.seePad).done = s.done := rfl
@[simp] theorem State.seePad_err : (s.seePad).err = s.err := rfl
@[simp] theorem State.seePad_errChar : (s.seePad).errChar = s.errChar := rfl
@[simp] theorem State.seePad_inLen : (s.seePad).inLen = s.inLen := rfl
@[simp] theorem State.seePad_outLen : (s.seePad).outLen = s.outLen := rfl
@[simp] theorem State.seePad_mem : (s.seePad).mem = s.mem := rfl
@[simp] theorem State.seePad_eng : (s.seePad).eng = { s.eng with padSeen := true } := rfl
@[simp] theorem State.seePad_resetAsserted : (s.seePad).resetAsserted = s.resetAsserted := rfl
@[simp] theorem State.seePad_resp : (s.seePad).resp = s.resp := rfl
@[simp] theorem State.seePad_port : (s.seePad).port = s.port := rfl
@[simp] theorem State.seePad_epoch : (s.seePad).epoch = s.epoch := rfl
@[simp] theorem State.seePad_draws : (s.seePad).draws = s.draws := rfl

/-! ### State.withFetchWord -/

@[simp] theorem State.withFetchWord_port (nbits w : Nat) :
    (s.withFetchWord nbits w).port = .txn (cmdWrite (BitVec.ofNat 32 (w % 2 ^ nbits))) :: s.port := rfl
@[simp] theorem State.withFetchWord_resetAsserted (nbits w : Nat) :
    (s.withFetchWord nbits w).resetAsserted = false := rfl
@[simp] theorem State.withFetchWord_withPort (nbits w : Nat) :
    (s.withFetchWord nbits w).withPort s.port = { s with resetAsserted := false } := rfl

end Sys2Proof.Machine
end

