-- ==== Sys2Proof/Laws/Memory.lean ====
section
/-! SUPPORT. The laws of memory: reading after a write, reading elsewhere, and that every memory
operation keeps the canonical form and the bounds of the buffers. -/

namespace Sys2Proof.Machine

/-! ### One octet -/

theorem Memory.read?_write (m : Memory) (a b : Nat) (x : Byte) :
    Memory.read? (Memory.write m a x) b = if a = b then some x else Memory.read? m b := by
  induction m with
  | nil => simp [Memory.write, Memory.read?]
  | cons c rest ih =>
    obtain ⟨k, y⟩ := c
    by_cases h1 : a < k
    · simp [Memory.write, h1, Memory.read?]
    · by_cases h2 : a = k
      · subst h2
        by_cases h3 : a = b <;> simp [Memory.write, Memory.read?, h3]
      · by_cases h3 : k = b
        · subst h3
          simp [Memory.write, h1, h2, Memory.read?]
        · simp [Memory.write, h1, h2, h3, Memory.read?, ih]

@[simp] theorem Memory.read?_write_same (m : Memory) (a : Nat) (x : Byte) :
    Memory.read? (Memory.write m a x) a = some x := by simp [Memory.read?_write]

theorem Memory.read?_write_other (m : Memory) {a b : Nat} (h : a ≠ b) (x : Byte) :
    Memory.read? (Memory.write m a x) b = Memory.read? m b := by simp [Memory.read?_write, h]

/-! ### A range of octets -/

theorem Memory.read?_writeRange (f : Nat → Byte) (a n : Nat) (m : Memory) (b : Nat) :
    Memory.read? (Memory.writeRange f a n m) b =
      if a ≤ b ∧ b < a + n then some (f b) else Memory.read? m b := by
  induction n with
  | zero =>
    have h : ¬(a ≤ b ∧ b < a + 0) := by omega
    simp only [Memory.writeRange, if_neg h]
  | succ n ih =>
    rw [Memory.writeRange, Memory.read?_write, ih]
    by_cases h : a + n = b
    · subst h
      have h' : a ≤ a + n ∧ a + n < a + (n + 1) := by omega
      simp [h']
    · have h' : (a ≤ b ∧ b < a + (n + 1)) ↔ (a ≤ b ∧ b < a + n) := by omega
      simp only [h, if_false, h']

/-! ### Canonical form -/

/-- In a canonical list the first offset is below every other one; stated for the head that a write
may put in front. -/
theorem Memory.wf_cons {k : Nat} {y : Byte} {rest : Memory} :
    Memory.wf ((k, y) :: rest) = true ↔
      (∀ c ∈ rest.head?, k < c.1) ∧ Memory.wf rest = true := by
  cases rest with
  | nil => simp [Memory.wf]
  | cons c r => obtain ⟨b, z⟩ := c; simp [Memory.wf]

theorem Memory.head?_write (m : Memory) (a : Nat) (x : Byte) :
    ∀ c ∈ (Memory.write m a x).head?, c.1 = a ∨ ∃ d ∈ m.head?, c.1 = d.1 := by
  cases m with
  | nil => simp [Memory.write]
  | cons d r =>
    obtain ⟨k, y⟩ := d
    by_cases h1 : a < k
    · simp [Memory.write, h1]
    · by_cases h2 : a = k <;> simp [Memory.write, h1, h2]

theorem Memory.wf_write (m : Memory) (a : Nat) (x : Byte) (h : Memory.wf m = true) :
    Memory.wf (Memory.write m a x) = true := by
  induction m with
  | nil => simp [Memory.write, Memory.wf]
  | cons c rest ih =>
    obtain ⟨k, y⟩ := c
    obtain ⟨hhead, hrest⟩ := Memory.wf_cons.mp h
    by_cases h1 : a < k
    · simp only [Memory.write, h1, if_true]
      exact Memory.wf_cons.mpr ⟨by simpa using h1, h⟩
    · by_cases h2 : a = k
      · subst h2
        simp only [Memory.write, h1, if_false, if_true]
        exact Memory.wf_cons.mpr ⟨hhead, hrest⟩
      · simp only [Memory.write, h1, h2, if_false]
        refine Memory.wf_cons.mpr ⟨fun c hc => ?_, ih hrest⟩
        rcases Memory.head?_write rest a x c hc with hc | ⟨d, hd, hc⟩
        · omega
        · have := hhead d hd
          omega

theorem Memory.wf_writeRange (f : Nat → Byte) (a n : Nat) (m : Memory) (h : Memory.wf m = true) :
    Memory.wf (Memory.writeRange f a n m) = true := by
  induction n with
  | zero => exact h
  | succ n ih => exact Memory.wf_write _ _ _ ih

/-! ### Offsets listed -/

theorem Memory.mem_write {m : Memory} {a : Nat} {x : Byte} {c : Host.Cell}
    (h : c ∈ Memory.write m a x) : c.1 = a ∨ c ∈ m := by
  induction m with
  | nil => simp [Memory.write] at h; simp [h]
  | cons d rest ih =>
    obtain ⟨k, y⟩ := d
    simp only [Memory.write] at h
    split at h
    · rcases List.mem_cons.mp h with rfl | h
      · exact .inl rfl
      · exact .inr h
    · split at h
      · rcases List.mem_cons.mp h with rfl | h
        · exact .inl rfl
        · exact .inr (List.mem_cons_of_mem _ h)
      · rcases List.mem_cons.mp h with rfl | h
        · exact .inr (List.mem_cons_self ..)
        · exact (ih h).imp_right (List.mem_cons_of_mem _)

theorem Memory.mem_writeRange {f : Nat → Byte} {a n : Nat} {m : Memory} {c : Host.Cell}
    (h : c ∈ Memory.writeRange f a n m) : (a ≤ c.1 ∧ c.1 < a + n) ∨ c ∈ m := by
  induction n with
  | zero => exact .inr h
  | succ n ih =>
    rcases Memory.mem_write h with h | h
    · left; omega
    · exact (ih h).imp_left fun h => by omega

/-! ### Octets of a state -/

/-- Reading one octet depends on the memory and the epoch only. -/
theorem State.octetAt_congr {s t : State} (hm : t.mem = s.mem) (he : t.epoch = s.epoch) (a : Nat) :
    t.octetAt a = s.octetAt a := by
  simp [State.octetAt, State.unwrittenOctet, hm, he]

theorem State.octetAt_memWriteOut (s : State) (i : Nat) (v : Byte) (a : Nat) :
    (s.memWriteOut i v).octetAt a = if outAddr i = a then v else s.octetAt a := by
  by_cases h : outAddr i = a <;>
    simp [State.octetAt, State.unwrittenOctet, Memory.read?_write, h]

theorem State.octetAt_writeOctets (s : State) (a n : Nat) (v : Word) (b : Nat) :
    (s.writeOctets a n v).octetAt b =
      if a ≤ b ∧ b < a + n then octetOfWord v (b - a) else s.octetAt b := by
  by_cases h : a ≤ b ∧ b < a + n <;>
    simp [State.octetAt, State.unwrittenOctet, Memory.read?_writeRange, h]

theorem State.octetAt_unspecifyOutput (s : State) (a : Nat) :
    s.unspecifyOutput.octetAt a =
      if outAddr 0 ≤ a ∧ a < outAddr (5 * s.eng.n / 8) then Config.freeOctet s.draws a
      else s.octetAt a := by
  have h : outAddr 0 + 5 * s.eng.n / 8 = outAddr (5 * s.eng.n / 8) := by simp [outAddr]
  by_cases h' : outAddr 0 ≤ a ∧ a < outAddr (5 * s.eng.n / 8) <;>
    simp [State.octetAt, State.unwrittenOctet, Memory.read?_writeRange, h, h']

theorem reset_memory_wf : Memory.wf State.reset.mem = true := rfl

end Sys2Proof.Machine
end

