-- ==== Sys2Proof/Laws/Commands.lean ====
section
/-! SUPPORT. One spec lemma for each shared operation of a command: dispatch, rejection, register
writes, a transaction, a step. Provers cite these instead of unfolding the operations. -/

namespace Sys2Proof.Machine

/-! ### Dispatch (43_control.md R200) -/

/-- Everything the dispatch of an ENCODE or DECODE word can do. -/
theorem State.dispatchCommand_cases (s : State) (op : EngineOp) (h : Alphabet) :
    (s.busy = true ∧ s.dispatchCommand op h = s) ∨
    (s.busy = false ∧ s.cfg.inBufSize < s.inLen.toNat ∧
      s.dispatchCommand op h = s.complete .badLen 0 0) ∨
    (s.busy = false ∧ s.inLen.toNat ≤ s.cfg.inBufSize ∧ s.dispatchCommand op h = s.start op h) := by
  cases hb : s.busy
  · by_cases hl : s.cfg.inBufSize < s.inLen.toNat
    · exact .inr (.inl ⟨rfl, hl, by simp [State.dispatchCommand, State.lengthTooLong, hb, hl]⟩)
    · exact .inr (.inr ⟨rfl, by omega, by simp [State.dispatchCommand, State.lengthTooLong, hb, hl]⟩)
  · exact .inl ⟨rfl, by simp [State.dispatchCommand, hb]⟩

/-- Everything the rejection of an illegal word can do. -/
theorem State.rejectCommand_cases (s : State) :
    (s.busy = true ∧ s.rejectCommand = s) ∨
    (s.busy = false ∧ s.rejectCommand = s.complete .badCmd 0 0) := by
  cases hb : s.busy <;> simp [State.rejectCommand, hb]

/-! ### The arms of exec -/

theorem exec_nop (s : State) : exec .nop s = .next s := rfl
theorem exec_encodeStd (s : State) : exec .encodeStd s = .next (s.dispatchCommand .encode .std) := rfl
theorem exec_encodeHex (s : State) : exec .encodeHex s = .next (s.dispatchCommand .encode .hex) := rfl
theorem exec_decodeStd (s : State) : exec .decodeStd s = .next (s.dispatchCommand .decode .std) := rfl
theorem exec_decodeHex (s : State) : exec .decodeHex s = .next (s.dispatchCommand .decode .hex) := rfl

/-- Everything a legal command word can do: nothing, BAD_LEN at once, or a start. -/
theorem exec_cases (i : Instr) (s : State) :
    exec i s = .next s ∨
    (s.busy = false ∧ i ≠ .nop ∧ s.cfg.inBufSize < s.inLen.toNat ∧
      exec i s = .next (s.complete .badLen 0 0)) ∨
    (s.busy = false ∧ i ≠ .nop ∧ s.inLen.toNat ≤ s.cfg.inBufSize ∧
      ∃ op h, exec i s = .next (s.start op h)) := by
  cases i with
  | nop => exact .inl rfl
  | encodeStd =>
    rw [exec_encodeStd]
    rcases s.dispatchCommand_cases .encode .std with ⟨_, e⟩ | ⟨hb, hl, e⟩ | ⟨hb, hl, e⟩ <;> rw [e]
    · exact .inl rfl
    · exact .inr (.inl ⟨hb, by decide, hl, rfl⟩)
    · exact .inr (.inr ⟨hb, by decide, hl, _, _, rfl⟩)
  | encodeHex =>
    rw [exec_encodeHex]
    rcases s.dispatchCommand_cases .encode .hex with ⟨_, e⟩ | ⟨hb, hl, e⟩ | ⟨hb, hl, e⟩ <;> rw [e]
    · exact .inl rfl
    · exact .inr (.inl ⟨hb, by decide, hl, rfl⟩)
    · exact .inr (.inr ⟨hb, by decide, hl, _, _, rfl⟩)
  | decodeStd =>
    rw [exec_decodeStd]
    rcases s.dispatchCommand_cases .decode .std with ⟨_, e⟩ | ⟨hb, hl, e⟩ | ⟨hb, hl, e⟩ <;> rw [e]
    · exact .inl rfl
    · exact .inr (.inl ⟨hb, by decide, hl, rfl⟩)
    · exact .inr (.inr ⟨hb, by decide, hl, _, _, rfl⟩)
  | decodeHex =>
    rw [exec_decodeHex]
    rcases s.dispatchCommand_cases .decode .hex with ⟨_, e⟩ | ⟨hb, hl, e⟩ | ⟨hb, hl, e⟩ <;> rw [e]
    · exact .inl rfl
    · exact .inr (.inl ⟨hb, by decide, hl, rfl⟩)
    · exact .inr (.inr ⟨hb, by decide, hl, _, _, rfl⟩)

/-! ### CMD, STATUS, IN_LEN and IN_BUF writes -/

/-- Everything a CMD write can do (43_control.md R200). -/
theorem State.writeCmd_cases (s : State) (w : Word) :
    s.writeCmd w = .next s ∨
    (s.busy = false ∧ s.writeCmd w = .next (s.complete .badCmd 0 0)) ∨
    (s.busy = false ∧ s.cfg.inBufSize < s.inLen.toNat ∧ s.writeCmd w = .next (s.complete .badLen 0 0)) ∨
    (s.busy = false ∧ s.inLen.toNat ≤ s.cfg.inBufSize ∧
      ∃ i op h, decode w = .command i ∧ i ≠ .nop ∧ s.writeCmd w = .next (s.start op h)) := by
  unfold State.writeCmd
  split
  next i hd =>
    rcases exec_cases i s with e | ⟨hb, -, hl, e⟩ | ⟨hb, hn, hl, op, h, e⟩
    · exact .inl e
    · exact .inr (.inr (.inl ⟨hb, hl, e⟩))
    · exact .inr (.inr (.inr ⟨hb, hl, i, op, h, hd, hn, e⟩))
  next =>
    rcases s.rejectCommand_cases with ⟨_, e⟩ | ⟨hb, e⟩ <;> rw [e]
    · exact .inl rfl
    · exact .inr (.inl ⟨hb, rfl⟩)

theorem State.writeStatus_cases (s : State) (v : Word) :
    s.writeStatus v = s ∨ (v.getLsbD 1 = true ∧ s.writeStatus v = s.clearDone) := by
  unfold State.writeStatus
  split
  · next h => exact .inr ⟨h, rfl⟩
  · exact .inl rfl

theorem State.writeInLen_cases (s : State) (v : Word) :
    (s.busy = true ∧ s.writeInLen v = s) ∨
    (s.busy = false ∧ s.writeInLen v = { s with inLen := v }) := by
  cases h : s.busy <;> simp [State.writeInLen, h]

theorem State.writeInput_cases (s : State) (i n : Nat) (v : Word) :
    (s.busy = true ∧ s.writeInput i n v = s) ∨
    (s.busy = false ∧ s.writeInput i n v = s.writeOctets (inAddr i) n v) := by
  cases h : s.busy <;> simp [State.writeInput, h]

/-! ### A transaction (20_memory.md R60) -/

/-- The place of an access inside a buffer lies inside its capacity (20_memory.md R66). -/
theorem place_inBuf {p : Config.Params} {a n i : Nat} (h : place p a n = .inBuf i) :
    a = inAddr i ∧ a % n = 0 ∧ i + n ≤ p.inBufSize := by
  unfold place at h
  split at h
  · split at h <;> simp at h
  · split at h
    · next hw =>
      split at h
      · next hc => simp at h; subst h; simp only [inAddr]; exact ⟨by omega, hc.1, hc.2⟩
      · simp at h
    · split at h
      · split at h <;> simp at h
      · simp at h

theorem place_outBuf {p : Config.Params} {a n i : Nat} (h : place p a n = .outBuf i) :
    a = outAddr i ∧ a % n = 0 ∧ i + n ≤ p.outBufSize := by
  unfold place at h
  split at h
  · split at h <;> simp at h
  · split at h
    · split at h <;> simp at h
    · split at h
      · next hw =>
        split at h
        · next hc => simp at h; subst h; simp only [outAddr]; exact ⟨by omega, hc.1, hc.2⟩
        · simp at h
      · simp at h

theorem place_reg {p : Config.Params} {a n : Nat} {r : Reg} (h : place p a n = .reg r) :
    a < 0x1000 ∧ n = 4 ∧ a % 4 = 0 ∧ r = regAt a := by
  unfold place at h
  split at h
  · next hw =>
    split at h
    · next hc => simp at h; exact ⟨hw, hc.1, hc.2, h.symm⟩
    · simp at h
  · split at h
    · split at h <;> simp at h
    · split at h
      · split at h <;> simp at h
      · simp at h

/-- Everything a transaction can do. Each case is a next state: the port never stops the machine. -/
theorem State.perform_cases (s : State) (t : Txn) :
    (∃ r, s.perform t = .next (s.answer r)) ∨
    (∃ r, s.busy = true ∧ t.access = .read ∧ s.perform t = .next (s.answer r).countDraw) ∨
    (∃ v, t.access = .write v ∧ placeOf s.cfg t = .reg .ctrl ∧
      s.perform t = .next ((s.answer .ok).writeCtrl v)) ∨
    (∃ v, t.access = .write v ∧ placeOf s.cfg t = .reg .cmd ∧
      s.perform t = (s.answer .ok).writeCmd v) ∨
    (∃ v, t.access = .write v ∧ placeOf s.cfg t = .reg .status ∧
      s.perform t = .next ((s.answer .ok).writeStatus v)) ∨
    (∃ v, t.access = .write v ∧ placeOf s.cfg t = .reg .inLen ∧
      s.perform t = .next ((s.answer .ok).writeInLen v)) ∨
    (∃ i v, t.access = .write v ∧ placeOf s.cfg t = .inBuf i ∧
      s.perform t = .next ((s.answer .ok).writeInput i t.size.octets v)) := by
  unfold State.perform
  cases hp : placeOf s.cfg t with
  | busErr => exact .inl ⟨_, rfl⟩
  | inBuf i =>
    cases ha : t.access with
    | read => exact .inl ⟨_, rfl⟩
    | write v => exact .inr (.inr (.inr (.inr (.inr (.inr ⟨i, v, rfl, rfl, rfl⟩)))))
  | outBuf i =>
    cases ha : t.access with
    | read =>
      cases hb : s.busy with
      | false => exact .inl ⟨.data (s.readOctets (outAddr i) t.size.octets), by simp [State.readOutput, hb]⟩
      | true =>
        exact .inr (.inl ⟨.data (s.drawnOctets (outAddr i) t.size.octets), rfl, rfl,
          by simp [State.readOutput, hb]⟩)
    | write v => exact .inl ⟨_, rfl⟩
  | reg r =>
    cases ha : t.access with
    | read => exact .inl ⟨_, rfl⟩
    | write v =>
      cases r with
      | ctrl => exact .inr (.inr (.inl ⟨v, rfl, rfl, rfl⟩))
      | cmd => exact .inr (.inr (.inr (.inl ⟨v, rfl, rfl, rfl⟩)))
      | status => exact .inr (.inr (.inr (.inr (.inl ⟨v, rfl, rfl, rfl⟩))))
      | inLen => exact .inr (.inr (.inr (.inr (.inr (.inl ⟨v, rfl, rfl, rfl⟩)))))
      | id => exact .inl ⟨.ok, rfl⟩
      | outLen => exact .inl ⟨.ok, rfl⟩
      | inCap => exact .inl ⟨.ok, rfl⟩
      | outCap => exact .inl ⟨.ok, rfl⟩
      | reserved => exact .inl ⟨.ok, rfl⟩

/-! ### The reset pin (00_scope.md R6) -/

/-- A change of the reset pin is one of the two reset edges, by the polarity. -/
theorem resetEvent_cases (p : Config.Params) (pin : Bool) :
    (resetAsserts p.resetKind pin = true ∧ resetEvent p pin = .resetAssert) ∨
    (resetAsserts p.resetKind pin = false ∧ resetEvent p pin = .resetRelease) := by
  cases h : resetAsserts p.resetKind pin <;> simp [resetEvent, h]

/-! ### A step -/

theorem step_idlePort {s : State} (h : s.port = []) : step s = .next s.engineTurn := by
  simp [step, h]

theorem step_txn {s : State} {t : Txn} {rest : List Event} (h : s.port = .txn t :: rest)
    (hr : s.resetAsserted = false) : step s = (s.withPort rest).perform t := by
  simp [step, h, hr]

theorem step_txn_duringReset {s : State} {t : Txn} {rest : List Event} (h : s.port = .txn t :: rest)
    (hr : s.resetAsserted = true) : step s = .refused .transactionDuringReset := by
  simp [step, h, hr]

theorem step_engineSlot {s : State} {rest : List Event} (h : s.port = .engineSlot :: rest) :
    step s = .next (s.withPort rest).engineTurn := by
  simp [step, h]

theorem step_resetAssert {s : State} {rest : List Event} (h : s.port = .resetAssert :: rest) :
    step s = .next (s.withPort rest).enterReset := by
  simp [step, h]

theorem step_resetRelease {s : State} {rest : List Event} (h : s.port = .resetRelease :: rest) :
    step s = .next (s.withPort rest).leaveReset := by
  simp [step, h]

/-- Everything a step that answers a next state can be. -/
theorem step_cases {s u : State} (h : step s = .next u) :
    (s.port = [] ∧ u = s.engineTurn) ∨
    (∃ t rest, s.port = .txn t :: rest ∧ s.resetAsserted = false ∧
      (s.withPort rest).perform t = .next u) ∨
    (∃ rest, s.port = .engineSlot :: rest ∧ u = (s.withPort rest).engineTurn) ∨
    (∃ rest, s.port = .resetAssert :: rest ∧ u = (s.withPort rest).enterReset) ∨
    (∃ rest, s.port = .resetRelease :: rest ∧ u = (s.withPort rest).leaveReset) := by
  cases hp : s.port with
  | nil =>
    rw [step_idlePort hp] at h
    injection h with h
    exact .inl ⟨rfl, h.symm⟩
  | cons e rest =>
    cases e with
    | txn t =>
      cases hr : s.resetAsserted with
      | false => rw [step_txn hp hr] at h; exact .inr (.inl ⟨t, rest, rfl, rfl, h⟩)
      | true => rw [step_txn_duringReset hp hr] at h; cases h
    | engineSlot =>
      rw [step_engineSlot hp] at h
      injection h with h
      exact .inr (.inr (.inl ⟨rest, rfl, h.symm⟩))
    | resetAssert =>
      rw [step_resetAssert hp] at h
      injection h with h
      exact .inr (.inr (.inr (.inl ⟨rest, rfl, h.symm⟩)))
    | resetRelease =>
      rw [step_resetRelease hp] at h
      injection h with h
      exact .inr (.inr (.inr (.inr ⟨rest, rfl, h.symm⟩)))

end Sys2Proof.Machine
end

