-- ==== Sys2Proof/Laws/PerInstr.lean ====
section
/-! SUPPORT. Statements for all instructions, made constructor by constructor. -/

namespace Sys2Proof.Laws.Encoding

/-- A well-formed command's word has legal fields and decodes to the command (30_encoding.md R90, R96). -/
def Statement (i : Instr) : Prop :=
  i.wf = true → (fieldsOfInstr i).wf = true ∧ fieldsOfWord (encode i) = fieldsOfInstr i ∧
    decode (encode i) = .command i

theorem nop : Statement .nop := fun _ => by decide
theorem encodeStd : Statement .encodeStd := fun _ => by decide
theorem encodeHex : Statement .encodeHex := fun _ => by decide
theorem decodeStd : Statement .decodeStd := fun _ => by decide
theorem decodeHex : Statement .decodeHex := fun _ => by decide

end Sys2Proof.Laws.Encoding
end

