-- ==== Sys2Proof/Laws/Stages.lean ====
section
/-! SUPPORT. The frame of the engine's stages, once for all of them: a stage changes the engine
elements and OUT_BUF only, and never `e.op`, `e.h` or `e.n`. -/

namespace Sys2Proof.Machine

/-- What every stage of a running command leaves alone (20_memory.md R62, R63, 10_state.md R40). -/
structure StageFrame (s t : State) : Prop where
  /-- Every register and every element that is neither memory nor engine. -/
  regs : t = { s with mem := t.mem, eng := t.eng }
  /-- Every octet below the OUT window, IN_BUF among them. -/
  low : ∀ a < outAddr 0, t.octetAt a = s.octetAt a
  op : t.eng.op = s.eng.op
  h : t.eng.h = s.eng.h
  n : t.eng.n = s.eng.n
  /-- The canonical form of memory is kept. -/
  wf : Memory.wf s.mem = true → Memory.wf t.mem = true

namespace StageFrame

theorem refl (s : State) : StageFrame s s := ⟨rfl, fun _ _ => rfl, rfl, rfl, rfl, id⟩

theorem trans {s t u : State} (h1 : StageFrame s t) (h2 : StageFrame t u) : StageFrame s u where
  regs := by
    rw [h2.regs, h1.regs]
  low a ha := (h2.low a ha).trans (h1.low a ha)
  op := h2.op.trans h1.op
  h := h2.h.trans h1.h
  n := h2.n.trans h1.n
  wf hw := h2.wf (h1.wf hw)

variable {s t : State}

theorem cfg (f : StageFrame s t) : t.cfg = s.cfg := by rw [f.regs]
theorem ie (f : StageFrame s t) : t.ie = s.ie := by rw [f.regs]
theorem busy (f : StageFrame s t) : t.busy = s.busy := by rw [f.regs]
theorem inLen (f : StageFrame s t) : t.inLen = s.inLen := by rw [f.regs]
theorem resetAsserted (f : StageFrame s t) : t.resetAsserted = s.resetAsserted := by rw [f.regs]
theorem resp (f : StageFrame s t) : t.resp = s.resp := by rw [f.regs]
theorem port (f : StageFrame s t) : t.port = s.port := by rw [f.regs]
theorem epoch (f : StageFrame s t) : t.epoch = s.epoch := by rw [f.regs]
theorem draws (f : StageFrame s t) : t.draws = s.draws := by rw [f.regs]

theorem inOctet (f : StageFrame s t) {i : Nat} (hi : i < 0x10000) : t.inOctet i = s.inOctet i :=
  f.low _ (by simp only [inAddr, outAddr]; omega)

/-- A change of engine elements other than `op`, `h` and `n` is a stage. -/
theorem ofEngine (s : State) (e : Engine) (h1 : e.op = s.eng.op) (h2 : e.h = s.eng.h)
    (h3 : e.n = s.eng.n) : StageFrame s { s with eng := e } :=
  ⟨rfl, fun _ _ => rfl, h1, h2, h3, id⟩

end StageFrame

/-! ### The encoder's stages (41_encode.md R131 to R134) -/

theorem State.memWriteOut_frame (s : State) (i : Nat) (v : Byte) : StageFrame s (s.memWriteOut i v) where
  regs := rfl
  low a ha := by
    have h : outAddr i ≠ a := by simp only [outAddr] at *; omega
    rw [State.octetAt_memWriteOut, if_neg h]
  op := rfl
  h := rfl
  n := rfl
  wf hw := Memory.wf_write _ _ _ hw

theorem State.emit_frame (s : State) (o : Byte) : StageFrame s (s.emit o) :=
  (s.memWriteOut_frame s.eng.wr o).trans (.ofEngine _ _ rfl rfl rfl)

theorem State.takeOctet_frame (s : State) : StageFrame s s.takeOctet := .ofEngine _ _ rfl rfl rfl

theorem State.emitGroup_frame (s : State) : StageFrame s s.emitGroup :=
  (s.emit_frame _).trans (.ofEngine _ _ rfl rfl rfl)

theorem groupLoop_frame (fuel : Nat) (s : State) : StageFrame s (groupLoop fuel s) := by
  induction fuel generalizing s with
  | zero => exact .refl s
  | succ k ih =>
    unfold groupLoop
    split
    · exact .refl s
    · exact s.emitGroup_frame.trans (ih _)

theorem State.grouperStep_frame (s : State) : StageFrame s s.grouperStep :=
  s.takeOctet_frame.trans (groupLoop_frame _ _)

theorem grouperLoop_frame (fuel : Nat) (s : State) : StageFrame s (grouperLoop fuel s) := by
  induction fuel generalizing s with
  | zero => exact .refl s
  | succ k ih => exact s.grouperStep_frame.trans (ih _)

theorem State.grouperFlush_frame (s : State) : StageFrame s s.grouperFlush := by
  unfold State.grouperFlush
  split
  · exact (s.emit_frame _).trans (.ofEngine _ _ rfl rfl rfl)
  · exact .refl s

theorem padLoop_frame (fuel : Nat) (s : State) : StageFrame s (padLoop fuel s) := by
  induction fuel generalizing s with
  | zero => exact .refl s
  | succ k ih =>
    unfold padLoop
    split
    · exact .refl s
    · exact (s.emit_frame _).trans (ih _)

theorem State.encodeStages_frame (s : State) : StageFrame s s.encodeStages :=
  ((grouperLoop_frame _ s).trans (State.grouperFlush_frame _)).trans (padLoop_frame _ _)

/-! ### The decoder's stages (42_decode.md R163 to R170) -/

theorem State.outOctetStep_frame (s : State) (o : Byte) : StageFrame s (s.outOctetStep o) :=
  (s.memWriteOut_frame s.eng.wr o).trans (.ofEngine _ _ rfl rfl rfl)

theorem State.popOctet_frame (s : State) : StageFrame s s.popOctet :=
  (s.outOctetStep_frame _).trans (.ofEngine _ _ rfl rfl rfl)

theorem State.unpack_frame (s : State) (v : BitVec 5) : StageFrame s (s.unpack v) := by
  have h : StageFrame s (s.pushSymbol v) := .ofEngine _ _ rfl rfl rfl
  unfold State.unpack
  simp only
  split
  · exact h.trans (State.popOctet_frame _)
  · exact h

/-- One turn of the decoder's loop: a stage, or a raise in a state that a stage reached. -/
theorem State.decodeOctet_frame (s : State) :
    (∃ t, s.decodeOctet = .ok t ∧ StageFrame s t) ∨
    (∃ r, s.decodeOctet = .error r ∧ StageFrame s r.at_ ∧ r.err = .invalidChar) := by
  have h : StageFrame s s.nextOctet := .ofEngine _ _ rfl rfl rfl
  unfold State.decodeOctet
  cases classify s.eng.h (s.inOctet s.eng.rd) with
  | ws => exact .inl ⟨_, rfl, h⟩
  | pad => exact .inl ⟨_, rfl, h.trans (.ofEngine _ _ rfl rfl rfl)⟩
  | sym v =>
    cases hp : s.nextOctet.eng.padSeen with
    | false => exact .inl ⟨_, by simp only [hp]; rfl, h.trans (State.unpack_frame _ v)⟩
    | true => exact .inr ⟨⟨.invalidChar, padOctet, s.nextOctet⟩, by simp only [hp]; rfl, h, rfl⟩
  | bad x =>
    cases hp : s.nextOctet.eng.padSeen with
    | false => exact .inr ⟨⟨.invalidChar, x, s.nextOctet⟩, by simp only [hp]; rfl, h, rfl⟩
    | true => exact .inr ⟨⟨.invalidChar, padOctet, s.nextOctet⟩, by simp only [hp]; rfl, h, rfl⟩

theorem decodeLoop_frame (fuel : Nat) (s : State) :
    (∃ t, decodeLoop fuel s = .ok t ∧ StageFrame s t) ∨
    (∃ r, decodeLoop fuel s = .error r ∧ StageFrame s r.at_ ∧ r.err = .invalidChar) := by
  induction fuel generalizing s with
  | zero => exact .inl ⟨s, rfl, .refl s⟩
  | succ k ih =>
    unfold decodeLoop
    rcases s.decodeOctet_frame with ⟨t, e, f⟩ | ⟨r, e, f, he⟩
    · rw [e]
      rcases ih t with ⟨u, e', f'⟩ | ⟨r, e', f', he⟩
      · exact .inl ⟨u, e', f.trans f'⟩
      · exact .inr ⟨r, e', f.trans f', he⟩
    · rw [e]
      exact .inr ⟨r, rfl, f, he⟩

/-- The stages of DECODE end in a state a stage reached, or raise one of the two errors there. -/
theorem State.decodeStages_frame (s : State) :
    (∃ t, s.decodeStages = .ok t ∧ StageFrame s t) ∨
    (∃ r, s.decodeStages = .error r ∧ StageFrame s r.at_ ∧
      (r.err = .invalidChar ∨ (r.err = .invalidUtf8 ∧ r.ch = 0))) := by
  unfold State.decodeStages
  rcases decodeLoop_frame (s.eng.n - s.eng.rd) s with ⟨t, e, f⟩ | ⟨r, e, f, he⟩
  · rw [e]
    cases hv : u8Accepts t.eng.checker with
    | true => exact .inl ⟨t, by simp [hv], f⟩
    | false => exact .inr ⟨⟨.invalidUtf8, 0, t⟩, by simp [hv], f, .inr ⟨rfl, rfl⟩⟩
  · rw [e]
    exact .inr ⟨r, rfl, f, .inl he⟩

/-! ### The engine transition (43_control.md R205, R206) -/

/-- Reading an octet is not affected by the result registers. -/
@[simp] theorem State.octetAt_complete (s : State) (e : ErrCode) (ch : Byte) (len a : Nat) :
    (s.complete e ch len).octetAt a = s.octetAt a := rfl

@[simp] theorem State.octetAt_start (s : State) (op : EngineOp) (h : Alphabet) (a : Nat) :
    (s.start op h).octetAt a = s.octetAt a := rfl

@[simp] theorem State.octetAt_answer (s : State) (r : Response) (a : Nat) :
    (s.answer r).octetAt a = s.octetAt a := rfl

@[simp] theorem State.octetAt_withPort (s : State) (rest : List Event) (a : Nat) :
    (s.withPort rest).octetAt a = s.octetAt a := rfl

@[simp] theorem State.memReadIn_length (s : State) (a n : Nat) : (s.memReadIn a n).length = n := by
  simp [State.memReadIn]

@[simp] theorem State.memReadOut_length (s : State) (a n : Nat) : (s.memReadOut a n).length = n := by
  simp [State.memReadOut]

/-- Everything the engine's turn can be: nothing while BUSY = 0; else a completion with NONE in a state
that the stages reached, or, for DECODE only, one of the two errors over unspecified output. -/
theorem State.engineTurn_cases (s : State) :
    (s.busy = false ∧ s.engineTurn = s) ∨
    (s.busy = true ∧ ∃ t, StageFrame s t ∧ s.engineTurn = t.complete .none 0 t.eng.wr ∧
      ((s.eng.op = .encode ∧ t = s.encodeStages) ∨
        (s.eng.op = .decode ∧ s.decodeStages = .ok t))) ∨
    (s.busy = true ∧ s.eng.op = .decode ∧ ∃ r, s.decodeStages = .error r ∧ StageFrame s r.at_ ∧
      (r.err = .invalidChar ∨ (r.err = .invalidUtf8 ∧ r.ch = 0)) ∧
      s.engineTurn = r.at_.unspecifyOutput.complete r.err r.ch 0) := by
  cases hb : s.busy with
  | false => exact .inl ⟨rfl, by simp [State.engineTurn, hb]⟩
  | true =>
    have ht : s.engineTurn = s.runCommand := by simp [State.engineTurn, hb]
    rw [ht]
    cases ho : s.eng.op with
    | encode =>
      exact .inr (.inl ⟨rfl, _, s.encodeStages_frame, by simp only [State.runCommand, ho]; rfl,
        .inl ⟨rfl, rfl⟩⟩)
    | decode =>
      rcases s.decodeStages_frame with ⟨t, e, f⟩ | ⟨r, e, f, he⟩
      · exact .inr (.inl ⟨rfl, t, f, by simp only [State.runCommand, ho, State.runDecode, e],
          .inr ⟨rfl, e⟩⟩)
      · exact .inr (.inr ⟨rfl, rfl, r, e, f, he, by simp only [State.runCommand, ho, State.runDecode, e]⟩)

end Sys2Proof.Machine
end

