-- ==== Sys2Proof/Machine/HostLines.lean ====
section
/-! DEFINITION. The command mnemonics of 30_encoding.md R97, and the host program lines of R98 as the
transactions they stand for. -/

namespace Sys2Proof.Machine

/-- The assembler's spelling of a command (30_encoding.md R97): the five mnemonics, and the two
pseudo-mnemonics `ENCODE` and `DECODE` for the standard forms. -/
def instrOfMnemonic : String → Option Instr
  | "NOP" => some .nop
  | "ENCODE.STD" => some .encodeStd
  | "ENCODE.HEX" => some .encodeHex
  | "DECODE.STD" => some .decodeStd
  | "DECODE.HEX" => some .decodeHex
  | "ENCODE" => some .encodeStd
  | "DECODE" => some .decodeStd
  | _ => none

/-- One line of a host program (30_encoding.md R98). -/
inductive HostLine where
  | w32 (off : Offset) (val : Word)
  | w16 (off : Offset) (val : BitVec 16)
  | w8 (off : Offset) (val : Byte)
  | r32 (off : Offset)
  | r16 (off : Offset)
  | r8 (off : Offset)
  /-- `START m`: write the word of command `m` to CMD. -/
  | start (m : Instr)
  /-- `WAIT`: read STATUS until BUSY is clear. -/
  | wait
  /-- `ACK`: clear DONE. -/
  | ack
  /-- `LOAD`: the octets to IN_BUF one by one, then their number to IN_LEN. -/
  | load (octets : List Byte)
  deriving DecidableEq, Repr

/-- The octet writes of `LOAD`, from IN_BUF index `i` on. -/
def loadWrites : Nat → List Byte → List Txn
  | _, [] => []
  | i, o :: rest =>
    { addr := BitVec.ofNat 18 (inAddr i), size := .one, access := .write (o.setWidth 32) } ::
      loadWrites (i + 1) rest

/-- The transactions of a line. A `WAIT` stands for as many STATUS reads as the host makes, `polls` of
them: how many it takes depends on when the engine moves (43_control.md R205; log 21). -/
def HostLine.txns (polls : Nat) : HostLine → List Txn
  | .w32 off v => [{ addr := off, size := .four, access := .write v }]
  | .w16 off v => [{ addr := off, size := .two, access := .write (v.setWidth 32) }]
  | .w8 off v => [{ addr := off, size := .one, access := .write (v.setWidth 32) }]
  | .r32 off => [{ addr := off, size := .four, access := .read }]
  | .r16 off => [{ addr := off, size := .two, access := .read }]
  | .r8 off => [{ addr := off, size := .one, access := .read }]
  | .start m => [cmdWrite (encode m)]
  | .wait => List.replicate polls { addr := 0x00C, size := .four, access := .read }
  | .ack => [{ addr := 0x00C, size := .four, access := .write 0x00000002 }]
  | .load os =>
    loadWrites 0 os ++ [{ addr := 0x010, size := .four, access := .write (BitVec.ofNat 32 os.length) }]

/-- The response that ends a `WAIT`: STATUS read with BUSY = 0 (30_encoding.md R98). -/
def Response.endsWait : Response → Bool
  | .data s => !s.getLsbD 0
  | .ok => false
  | .busErr => false

end Sys2Proof.Machine
end

