-- ==== Sys2Proof/Tests/Slice0.lean ====
section
/-! SUPPORT. The model's own tests. Expected values come from spec/95_test_vectors.md or from the rule a
test names; the witnesses at the end show, for each statement with hypotheses, operands that meet them. -/

namespace Sys2Proof.Tests

open Sys2Proof.Machine
open Sys2Proof.Claims

/-! ### Helpers -/

/-- Octets at IN_BUF indices from `i` on. -/
def cells : Nat → List Byte → Memory
  | _, [] => []
  | i, o :: rest => (inAddr i, o) :: cells (i + 1) rest

/-- After reset, with an input loaded and IN_LEN its length. -/
def idleWith (octets : List Byte) : State :=
  { State.reset with mem := cells 0 octets, inLen := BitVec.ofNat 32 octets.length }

/-- A command started on that input, the engine transition still to come. -/
def busyWith (op : EngineOp) (h : Alphabet) (octets : List Byte) : State := (idleWith octets).start op h

/-- The next state of an outcome, `d` if there is none. -/
def nextOr (d : State) : Host.Outcome State Fault Refusal → State
  | .next t => t
  | .fault _ => d
  | .refused _ => d

/-- The CMD write of a command on an input, then the engine transition. -/
def ranOn (i : Instr) (octets : List Byte) : State :=
  (nextOr State.reset (exec i (idleWith octets))).engineTurn

/-- STATUS, and the output sequence. -/
def result (s : State) : Word × List Byte := (s.statusWord, s.memReadOut 0 s.outLen.toNat)

/-! ### Well-formedness: each check refuses an ill-formed term -/

theorem test_wf_refuses_reserved_bits :
    CommandFields.wf { rsv := 1, h := false, op := 1 } = false := by decide
theorem test_wf_refuses_reserved_op :
    CommandFields.wf { rsv := 0, h := false, op := 3 } = false := by decide
theorem test_wf_refuses_nop_with_h :
    CommandFields.wf { rsv := 0, h := true, op := 0 } = false := by decide
theorem test_wf_accepts_encode_hex :
    CommandFields.wf { rsv := 0, h := true, op := 1 } = true := by decide
theorem test_wf_refuses_empty_input_buffer :
    Config.Params.wf { Config.reference with inBufSize := 0, outBufSize := 8, base := 0 } = false := by decide
theorem test_wf_refuses_large_input_buffer :
    Config.Params.wf { Config.reference with inBufSize := 40961, outBufSize := 65536, base := 0 } = false := by decide
theorem test_wf_refuses_small_output_buffer :
    Config.Params.wf { Config.reference with inBufSize := 1280, outBufSize := 2047, base := 0 } = false := by decide
theorem test_wf_refuses_large_output_buffer :
    Config.Params.wf { Config.reference with inBufSize := 1280, outBufSize := 65537, base := 0 } = false := by decide
theorem test_wf_refuses_unaligned_base :
    Config.Params.wf { Config.reference with inBufSize := 1280, outBufSize := 2048, base := 0x20000 } = false := by decide
theorem test_wf_accepts_reference : Config.reference.wf = true := by decide
theorem test_wf_refuses_wide_write_data :
    Txn.wf { addr := 0x10000, size := .one, access := .write 0x100 } = false := by decide

/-! ### Decoding: words written out from the fields of 30_encoding.md R90 (RSV 27 bits, H, OP) -/

theorem test_decode_nop : decode 0b000000000000000000000000000_0_0000 = .command .nop := by decide
theorem test_decode_encodeStd :
    decode 0b000000000000000000000000000_0_0001 = .command .encodeStd := by decide
theorem test_decode_encodeHex :
    decode 0b000000000000000000000000000_1_0001 = .command .encodeHex := by decide
theorem test_decode_decodeStd :
    decode 0b000000000000000000000000000_0_0010 = .command .decodeStd := by decide
theorem test_decode_decodeHex :
    decode 0b000000000000000000000000000_1_0010 = .command .decodeHex := by decide
theorem test_decode_refuses_nop_with_h : decode 0x00000010 = .illegal .nopWithH := by decide
theorem test_decode_refuses_reserved_op : decode 0x00000013 = .illegal .reservedOp := by decide
theorem test_decode_refuses_reserved_bits : decode 0x80000001 = .illegal .reservedBits := by decide
theorem test_encode_words :
    [Instr.nop, .encodeStd, .encodeHex, .decodeStd, .decodeHex].map encode =
      [0x00000000, 0x00000001, 0x00000011, 0x00000002, 0x00000012] := by decide
theorem test_table_word : decodeTableWord 32 18 = some .decodeHex := by decide
theorem test_first_step_runs_the_word :
    nextOr State.reset (step (State.reset.withFetchWord 32 1)) =
      (State.reset.answer .ok).start .encode .std := by decide

/-! ### Tables (95_test_vectors.md 2.1; the symbols of 40_alphabet.md R112 in order) -/

theorem test_std_table : (List.range 32).map (fun v => encLut .std (BitVec.ofNat 5 v)) =
    [0x41, 0x42, 0x43, 0x44, 0x45, 0x46, 0x47, 0x48, 0x49, 0x4A, 0x4B, 0x4C, 0x4D, 0x4E, 0x4F, 0x50] ++
    [0x51, 0x52, 0x53, 0x54, 0x55, 0x56, 0x57, 0x58, 0x59, 0x5A, 0x32, 0x33, 0x34, 0x35, 0x36, 0x37] := by
  decide
theorem test_hex_table : (List.range 32).map (fun v => encLut .hex (BitVec.ofNat 5 v)) =
    [0x30, 0x31, 0x32, 0x33, 0x34, 0x35, 0x36, 0x37, 0x38, 0x39, 0x41, 0x42, 0x43, 0x44, 0x45, 0x46] ++
    [0x47, 0x48, 0x49, 0x4A, 0x4B, 0x4C, 0x4D, 0x4E, 0x4F, 0x50, 0x51, 0x52, 0x53, 0x54, 0x55, 0x56] := by
  decide
theorem test_classify_neighbours :
    (classify .std 0x61, classify .hex 0x7A, classify .std 0x60, classify .std 0x7B, classify .std 0x85,
      classify .std 0x3D) = (.sym 0, .bad 0x5A, .bad 0x60, .bad 0x7B, .bad 0x85, .pad) := by decide
theorem test_whitespace_set :
    ((List.range 256).filter fun c => isWS (BitVec.ofNat 8 c)) = [9, 10, 11, 12, 13, 32] := by decide

/-! ### The commands (95_test_vectors.md 2.2 to 2.6) -/

theorem test_nop_keeps_status :
    (nextOr State.reset (exec .nop { State.reset with done := true, err := .invalidChar, errChar := 0x3D })).statusWord
      = 0x00003D12 := by decide

/-- "fo" gives "MZXQ====". -/
theorem test_encodeStd_fo :
    result (ranOn .encodeStd [0x66, 0x6F]) =
      (0x00000002, [0x4D, 0x5A, 0x58, 0x51, 0x3D, 0x3D, 0x3D, 0x3D]) := by decide
/-- "foobar" gives "MZXW6YTBOI======": the first and the last symbol groups, and the padding. -/
theorem test_encodeStd_foobar :
    result (ranOn .encodeStd [0x66, 0x6F, 0x6F, 0x62, 0x61, 0x72]) =
      (0x00000002, [0x4D, 0x5A, 0x58, 0x57, 0x36, 0x59, 0x54, 0x42] ++
        [0x4F, 0x49, 0x3D, 0x3D, 0x3D, 0x3D, 0x3D, 0x3D]) := by decide
/-- "fooba" gives "CPNMUOJ1" with the hex alphabet, no padding. -/
theorem test_encodeHex_fooba :
    result (ranOn .encodeHex [0x66, 0x6F, 0x6F, 0x62, 0x61]) =
      (0x00000002, [0x43, 0x50, 0x4E, 0x4D, 0x55, 0x4F, 0x4A, 0x31]) := by decide
/-- IN_LEN = IN_BUF_SIZE + 1: BAD_LEN at once (2.7). -/
theorem test_encodeHex_badLen :
    (nextOr State.reset (exec .encodeHex { State.reset with inLen := 1281 })).statusWord = 0x00000042 := by
  decide
/-- "m Y\n==" decodes to `f`: case, whitespace, any count of `=`. -/
theorem test_decodeStd_f :
    result (ranOn .decodeStd [0x6D, 0x20, 0x59, 0x0A, 0x3D, 0x3D]) = (0x00000002, [0x66]) := by decide
/-- "M==#" reports the `=`, not the `#`. -/
theorem test_decodeStd_misplaced_pad :
    (ranOn .decodeStd [0x4D, 0x3D, 0x3D, 0x23]).statusWord = 0x00003D12 := by decide
/-- "w0======" with the hex alphabet reports `W`, after normalisation. -/
theorem test_decodeHex_bad_char :
    (ranOn .decodeHex [0x77, 0x30, 0x3D, 0x3D, 0x3D, 0x3D, 0x3D, 0x3D]).statusWord = 0x00005712 := by decide
/-- "VS" with the hex alphabet unpacks to FF, which is not UTF-8. -/
theorem test_decodeHex_not_utf8 : (ranOn .decodeHex [0x56, 0x53]).statusWord = 0x00000022 := by decide
/-- The verdicts of 2.6: surrogate, overlong, above U+10FFFF, truncated; then the largest code point. -/
theorem test_utf8_verdicts :
    ([[0xED, 0xA0, 0x80], [0xC0, 0xAF], [0xE0, 0x9F, 0xBF], [0xF4, 0x90, 0x80, 0x80], [0xE2, 0x82]].map
      utf8Valid, utf8Valid [0xF4, 0x8F, 0xBF, 0xBF]) = ([false, false, false, false, false], true) := by
  decide
/-- A successful DECODE leaves OUT_BUF octets at and above OUT_LEN alone (program P3). -/
theorem test_decode_leaves_old_output :
    (nextOr State.reset (exec .decodeHex
      { idleWith [0x43, 0x4F] with mem := cells 0 [0x43, 0x4F] ++ [(outAddr 1, 0x4F)] })).engineTurn.memReadOut 0 2
      = [0x66, 0x4F] := by decide

/-! ### The port (95_test_vectors.md 2.7, 2.8) -/

theorem test_illegal_word :
    (nextOr State.reset (State.reset.writeCmd 0x00000010)).statusWord = 0x00000032 := by decide
theorem test_status_write_clears_done_only :
    (nextOr State.reset
      ({ State.reset with done := true, err := .invalidChar, errChar := 0x3D }.perform
        (writeTxn 0x00C .four 0xFFFFFFFF))).statusWord = 0x00003D10 := by decide
/-- W32 0x10000, 0x626F6F66 stores "foob". -/
theorem test_input_write_is_little_endian :
    (nextOr State.reset (State.reset.perform (writeTxn 0x10000 .four 0x626F6F66))).memReadIn 0 4 =
      [0x66, 0x6F, 0x6F, 0x62] := by decide
theorem test_input_read16 :
    (nextOr State.reset ((idleWith [0x66, 0x6F, 0x6F, 0x62]).perform (readTxn 0x10002 .two))).resp =
      some (.data 0x0000626F) := by decide
theorem test_bus_errors :
    ([readTxn 0x00000 .two, readTxn 0x00002 .four, readTxn 0x01000 .four, readTxn 0x30000 .four] ++
      [readTxn 0x10001 .two, readTxn 0x10500 .one, readTxn 0x20800 .one]).map
      (fun x => (nextOr State.reset (State.reset.perform x)).resp) =
    List.replicate 7 (some .busErr) := by decide
theorem test_last_octets_in_capacity :
    [placeOf Config.reference (readTxn 0x104FC .four), placeOf Config.reference (readTxn 0x207FF .one)] =
      [.inBuf 0x4FC, .outBuf 0x7FF] := by decide

/-- RESET_KIND: a pin at 1 asserts an active-high reset and releases an active-low one. -/
theorem test_reset_event_polarity :
    (resetEvent Config.reference true,
      resetEvent { Config.reference with resetKind := ⟨.activeLow, .asynchronous⟩ } true) =
      (.resetAssert, .resetRelease) := by decide

/-! ### Mnemonics and host lines (30_encoding.md R97, R98) -/

theorem test_default_mnemonics :
    (instrOfMnemonic "ENCODE", instrOfMnemonic "DECODE.HEX", instrOfMnemonic "ENCODE.X") =
      (some .encodeStd, some .decodeHex, none) := by decide
theorem test_load_line :
    (HostLine.load [0x4D, 0x59]).txns 1 =
      [writeTxn 0x10000 .one 0x4D, writeTxn 0x10001 .one 0x59, writeTxn 0x010 .four 2] := by decide

/-! ### Witnesses: operands that meet the hypotheses of each statement -/

/-- A busy state of each operation, with events waiting. -/
def busyEncode : State := busyWith .encode .hex [0x66]
def busyDecode : State := busyWith .decode .std [0x4D, 0x23]

/-- IN_LEN at its largest legal value and one above. -/
def fullLength : State := { State.reset with inLen := 1280 }
def overlong : State := { State.reset with inLen := 1281 }

theorem witness_DecodeInvertsEncode : Instr.wf .decodeHex = true := by decide

theorem witness_StepTakesTheNextEvent :
    State.reset.port = [] ∧
    (State.reset.withFetchWord 32 1).port = .txn (cmdWrite 1) :: [] ∧
    (State.reset.withFetchWord 32 1).resetAsserted = false ∧
    (State.reset.withPort [.engineSlot]).port = .engineSlot :: [] ∧
    (State.reset.withPort [.resetAssert]).port = .resetAssert :: [] ∧
    (State.reset.withPort [.resetRelease]).port = .resetRelease :: [] := by decide

theorem witness_StepRunsTheDecodedCommand :
    (State.reset.withFetchWord 32 0x12).port = .txn (cmdWrite 0x12) :: [] ∧
    (State.reset.withFetchWord 32 0x12).resetAsserted = false ∧ decode 0x12 = .command .decodeHex := by
  decide

theorem witness_IllegalWordCompletesWithBadCmd :
    (State.reset.withFetchWord 32 0x10).port = .txn (cmdWrite 0x10) :: [] ∧
    (State.reset.withFetchWord 32 0x10).resetAsserted = false ∧
    (State.reset.withFetchWord 32 0x10).busy = false ∧ decode 0x10 = .illegal .nopWithH := by decide

theorem witness_CommandWhileBusyIsDropped :
    (busyEncode.withFetchWord 32 2).port = .txn (cmdWrite 2) :: [] ∧
    (busyEncode.withFetchWord 32 2).resetAsserted = false ∧
    (busyEncode.withFetchWord 32 2).busy = true := by decide

theorem witness_NopChangesNothing :
    (State.reset.withFetchWord 32 0).port = .txn (cmdWrite 0x00000000) :: [] ∧
    (State.reset.withFetchWord 32 0).resetAsserted = false := by decide

theorem witness_EncodeAndDecodeWordsStart :
    (State.reset.busy = false ∧ State.reset.inLen.toNat ≤ State.reset.cfg.inBufSize) ∧
    fullLength.busy = false ∧ fullLength.inLen.toNat ≤ fullLength.cfg.inBufSize := by decide

theorem witness_OverlongInputCompletesWithBadLen :
    overlong.busy = false ∧ overlong.cfg.inBufSize < overlong.inLen.toNat ∧
    Instr.encodeStd ≠ .nop ∧ fullLength.busy = false ∧
    fullLength.inLen.toNat ≤ fullLength.cfg.inBufSize := by decide

theorem witness_CommandWordFrame :
    (nextOr overlong (exec .nop State.reset)).busy = false ∧
    (nextOr State.reset (exec .decodeStd overlong)).busy = false ∧
    busyEncode.busy = true ∧ (nextOr State.reset (exec .decodeStd busyEncode)).busy = true := by decide

theorem witness_EncodeCommandsWriteEncodeFn :
    (State.reset.cfg.wf = true ∧ State.reset.busy = false ∧
      State.reset.inLen.toNat ≤ State.reset.cfg.inBufSize) ∧
    fullLength.cfg.wf = true ∧ fullLength.busy = false ∧
    fullLength.inLen.toNat ≤ fullLength.cfg.inBufSize := by decide

theorem witness_EncoderStagesAgreeWithEncodeFn :
    (0 ≤ 40960 ∧ (State.reset.start .encode .std).eng = Engine.started .encode .std 0) ∧
    (40960 ≤ 40960 ∧ ({ State.reset with inLen := 40960 }.start .encode .hex).eng =
      Engine.started .encode .hex 40960) := by decide

theorem witness_EncodeNeverFails : busyEncode.busy = true ∧ busyEncode.eng.op = .encode := by decide

theorem witness_StagesKeepTheirCounts :
    busyEncode.eng.nb ≤ 4 ∧ ({ busyEncode.eng with nb := 4 } : Engine).nb ≤ 4 ∧
    ({ busyDecode.eng with nb := 7 } : Engine).nb ≤ 7 := by decide

theorem witness_EncodeOutputLength :
    ([] : List Byte).length = 5 * 0 + 0 ∧ ([0x66, 0x66, 0x66, 0x66] : List Byte).length = 5 * 0 + 4 ∧
    ([0x66, 0x66, 0x66, 0x66, 0x66, 0x66] : List Byte).length = 5 * 1 + 1 ∧ 4 < 5 := by decide

theorem witness_AlphabetsDifferInSymbolsOnly : ([0x66] : List Byte) ≠ [] := by decide

theorem witness_AlphabetTablesAreInverse :
    decLut .std 0x5A = some 25 ∧ decLut .hex 0x30 = some 0 ∧ decLut .std 0x37 = some 31 := by decide

theorem witness_OctetsAcceptedAsSymbols :
    ((0x77 : Byte) ≤ 0x77 ∧ (0x77 : Byte) ≤ 0x7A) ∧ (0x77 : Byte) ≤ 0x7A ∧ (0x7A : Byte) ≤ 0x7A := by decide

theorem witness_DecodeCommandsReportDecodeFn :
    ((idleWith [0x4D, 0x59]).cfg.wf = true ∧ (idleWith [0x4D, 0x59]).busy = false ∧
      (idleWith [0x4D, 0x59]).inLen.toNat ≤ (idleWith [0x4D, 0x59]).cfg.inBufSize) ∧
    decodeFn .std (idleWith [0x4D, 0x59]).hostInput = .ok [0x66] ∧
    decodeFn .hex (idleWith [0x4D, 0x59]).hostInput = .invalidCharacter 0x59 ∧
    decodeFn .std (idleWith [0x37, 0x34]).hostInput = .invalidUtf8 := by decide

theorem witness_DecoderStagesAgreeWithDecodeFn :
    (2 ≤ 40960 ∧ busyDecode.eng = Engine.started .decode .std 2) ∧
    ({ State.reset with inLen := 40960 }.start .decode .hex).eng = Engine.started .decode .hex 40960 := by
  decide

theorem witness_AlphabetClosureOfDecode :
    ∀ x ∈ ([0x4D, 0x59] : List Byte), (decLut .std x).isSome = true := by decide

theorem witness_CaseAndWhitespaceDoNotMatter :
    ((0x61 : Byte) ≤ 0x61 ∧ (0x61 : Byte) ≤ 0x7A) ∧ (0x61 : Byte) ≤ 0x7A ∧ (0x7A : Byte) ≤ 0x7A ∧
    isWS 0x0B = true := by decide

theorem witness_DecodeOutputLength :
    decodeFn .std [0x4D, 0x59, 0x3D] = .ok [0x66] ∧
    (dropPadding (normalised [0x4D, 0x59, 0x3D])).length = 8 * 0 + 2 := by decide

theorem witness_MisplacedPaddingIsReported :
    classify (busyWith .decode .std [0x3D]).eng.h ((busyWith .decode .std [0x3D]).inOctet 0) = .pad ∧
    busyDecode.seePad.eng.padSeen = true ∧
    classify busyDecode.seePad.eng.h (busyDecode.seePad.inOctet busyDecode.seePad.eng.rd) = .sym 12 ∧
    classify .std 0x20 = .ws ∧ classify .std 0x4D = .sym 12 ∧ classify .std 0x23 = .bad 0x23 := by decide

theorem witness_MisplacedPaddingIsReported_lists :
    (∀ x ∈ ([0x4D, 0x20] : List Byte), IsWsOrSymbol .std x) ∧
    (∀ x ∈ ([0x3D, 0x20] : List Byte), classify .std x = .ws ∨ classify .std x = .pad) ∧
    classify .std 0x23 ≠ .ws ∧ classify .std 0x23 ≠ .pad := by
  refine ⟨?_, by decide, by decide, by decide⟩
  intro x hx
  simp only [List.mem_cons, List.not_mem_nil, or_false] at hx
  rcases hx with rfl | rfl
  · exact .inr ⟨12, by decide⟩
  · exact .inl (by decide)

theorem witness_FirstNonMemberIsReported :
    (∀ y ∈ ([0x4D] : List Byte), IsWsOrSymbol .hex y) ∧ classify .hex 0x7A = .bad 0x5A := by
  refine ⟨?_, by decide⟩
  intro y hy
  simp only [List.mem_cons, List.not_mem_nil, or_false] at hy
  subst hy
  exact .inr ⟨22, by decide⟩

theorem witness_DiscardedBitsDoNotMatter :
    ([12, 25] : List (BitVec 5)).length = ([12, 24] : List (BitVec 5)).length ∧
    (([12, 25] : List (BitVec 5)).flatMap bits5).take (8 * (5 * 2 / 8)) =
      (([12, 24] : List (BitVec 5)).flatMap bits5).take (8 * (5 * 2 / 8)) := by decide

theorem witness_EngineTransitionFrame :
    (Inv busyEncode ∧ busyEncode.busy = true ∧ busyEncode.engineTurn.err = .none) ∧
    Inv busyDecode ∧ busyDecode.busy = true ∧ busyDecode.engineTurn.err ≠ .none := by decide

theorem witness_StartedCommandCompletes :
    Inv (busyDecode.withPort [.txn (cmdWrite 1), .engineSlot]) ∧
    (busyDecode.withPort [.txn (cmdWrite 1), .engineSlot]).busy = true ∧
    (∀ e ∈ (busyDecode.withPort [.txn (cmdWrite 1), .engineSlot]).port,
      e ≠ .resetAssert ∧ e ≠ .resetRelease) ∧
    Inv (busyDecode.withPort [.resetAssert]) ∧ (busyDecode.withPort [.resetAssert]).busy = true := by
  decide

theorem witness_HostCannotChangeARunningCommand :
    Inv (busyEncode.withPort [.txn (writeTxn 0x10000 .one 0x41)]) ∧
    (busyEncode.withPort [.txn (writeTxn 0x10000 .one 0x41)]).busy = true ∧
    (busyEncode.withPort [.txn (writeTxn 0x10000 .one 0x41)]).port =
      .txn (writeTxn 0x10000 .one 0x41) :: [] := by decide

theorem witness_CommandsAreIndependent :
    Instr.decodeStd ≠ .nop ∧ (idleWith [0x4D]).cfg.wf = true ∧
    (idleWith [0x4D]).cfg = ((idleWith [0x4D]).complete .badCmd 0 0).cfg ∧
    (idleWith [0x4D]).busy = false ∧ ((idleWith [0x4D]).complete .badCmd 0 0).busy = false ∧
    (idleWith [0x4D]).inLen = ((idleWith [0x4D]).complete .badCmd 0 0).inLen ∧
    ∀ k < (idleWith [0x4D]).inLen.toNat,
      (idleWith [0x4D]).inOctet k = ((idleWith [0x4D]).complete .badCmd 0 0).inOctet k := by decide

theorem witness_StatusDuringACommand : Inv busyEncode ∧ busyEncode.busy = true := by decide

theorem witness_StepKeepsInvariant :
    (Inv busyEncode ∧ step busyEncode = .next busyEncode.engineTurn) ∧
    Inv (State.reset.withFetchWord 32 0x12) := by
  refine ⟨⟨by decide, rfl⟩, by decide⟩

theorem witness_ResetHasInvariant :
    Config.Params.wf { Config.reference with inBufSize := 40960, outBufSize := 65536, base := 0x40000 } = true ∧
    Config.Params.wf { Config.reference with inBufSize := 1, outBufSize := 8, base := 0 } = true := by decide

theorem witness_ReleaseOfResetLeavesTheResetValues :
    (busyEncode.enterReset.withPort [.resetRelease]).port = .resetRelease :: [] ∧
    (busyEncode.enterReset.withPort [.txn (cmdWrite 1)]).port = .txn (cmdWrite 1) :: [] ∧
    (busyEncode.enterReset.withPort [.txn (cmdWrite 1)]).resetAsserted = true := by decide

theorem witness_ResetAbandonsARunningCommand :
    (busyEncode.withPort [.resetAssert, .resetRelease]).busy = true ∧
    (busyEncode.withPort [.resetAssert, .resetRelease]).port =
      .resetAssert :: .resetRelease :: [] := by decide

theorem witness_ReservedOffsetsReadZero :
    (0x020 ≤ (0x020 : Offset).toNat ∧ (0x020 : Offset).toNat ≤ 0xFFC ∧ (0x020 : Offset).toNat % 4 = 0) ∧
    0x020 ≤ (0xFFC : Offset).toNat ∧ (0xFFC : Offset).toNat ≤ 0xFFC ∧
    (0xFFC : Offset).toNat % 4 = 0 := by decide

theorem witness_InLenWriteReadsBack : State.reset.busy = false ∧ busyEncode.busy = true := by decide

theorem witness_BusErrExactlyOnBadAccess :
    BusErrCondition Config.reference 0x00002 4 ∧ BusErrCondition Config.reference 0x104FE 4 ∧
    BusErrCondition Config.reference 0x20800 1 ∧ BusErrCondition Config.reference 0x0FFFF 1 ∧
    BusErrCondition Config.reference 0x30000 4 ∧ ¬BusErrCondition Config.reference 0x00FFC 4 ∧
    ¬BusErrCondition Config.reference 0x104FC 4 ∧ ¬BusErrCondition Config.reference 0x207FF 1 := by
  simp [BusErrCondition, Config.reference]

theorem witness_ReadsHaveNoSideEffect :
    (readTxn 0x20000 .four).access = .read ∧ State.reset.busy = false := by decide

theorem witness_BufferAccessesAreLittleEndian_reads :
    ((readTxn 0x104FC .four).access = .read ∧
      placeOf State.reset.cfg (readTxn 0x104FC .four) = .inBuf 0x4FC ∧ 0x104FC = inAddr 0x4FC) ∧
    State.reset.busy = false ∧ placeOf State.reset.cfg (readTxn 0x20000 .one) = .outBuf 0 ∧
    0x20000 = outAddr 0 := by decide

theorem witness_BufferAccessesAreLittleEndian :
    State.reset.cfg.wf = true ∧ State.reset.busy = false ∧ (0x104FC : Offset).toNat = inAddr 0x4FC ∧
    (0x104FC : Offset).toNat % Size.four.octets = 0 ∧
    0x4FC + Size.four.octets ≤ State.reset.cfg.inBufSize := by decide

theorem witness_IgnoredBufferAccesses :
    (placeOf busyEncode.cfg (writeTxn 0x104FF .one 1) = .inBuf 0x4FF ∧ busyEncode.busy = true ∧
      (writeTxn 0x104FF .one 1).access = .write 1) ∧
    (placeOf busyEncode.cfg (writeTxn 0x20000 .one 1) = .outBuf 0 ∧
      (writeTxn 0x20000 .one 1).access = .write 1) ∧
    (placeOf State.reset.cfg (readTxn 0x207FC .four) = .outBuf 0x7FC ∧
      (readTxn 0x207FC .four).access = .read ∧ State.reset.busy = false) ∧
    placeOf busyEncode.cfg (readTxn 0x20000 .two) = .outBuf 0 ∧
    (readTxn 0x20000 .two).access = .read := by decide

theorem witness_BaseSelectsTheBlock :
    Config.Params.wf { Config.reference with inBufSize := 1280, outBufSize := 2048, base := 0x80000 } = true ∧
    0x7FFFF < 0x80000 ∧ 0x80000 + 0x40000 ≤ 0xC0000 := by decide

theorem witness_PhysicalParametersDoNotMatter :
    (∃ t, step (State.reset.withFetchWord 32 1) = .next t) ∧
    step (State.reset.enterReset.withPort [.txn (cmdWrite 1)]) = .refused .transactionDuringReset :=
  ⟨⟨_, rfl⟩, rfl⟩

theorem witness_WhatChangesBusy :
    (∃ t, step (State.reset.withFetchWord 32 1) = .next t ∧
      (State.reset.withFetchWord 32 1).busy = false ∧ t.busy = true) ∧
    (∃ t, step busyEncode = .next t ∧ busyEncode.busy = true ∧ t.busy = false) ∧
    (∃ t, step (busyEncode.withPort [.resetAssert]) = .next t ∧
      (busyEncode.withPort [.resetAssert]).busy = true ∧ t.busy = false) :=
  ⟨⟨_, rfl, by decide⟩, ⟨_, rfl, by decide⟩, ⟨_, rfl, by decide⟩⟩

/-- A completed command not yet acknowledged. -/
def doneState : State := (idleWith [0x66]).complete .badCmd 0 0

theorem witness_WhatChangesDone :
    (∃ t, step (busyEncode.withPort [.engineSlot]) = .next t ∧ busyEncode.done = false ∧ t.done = true) ∧
    (∃ t, step (State.reset.withFetchWord 32 0x10) = .next t ∧ t.done = true) ∧
    (∃ t, step (overlong.withFetchWord 32 1) = .next t ∧ t.done = true) ∧
    (∃ t, step (doneState.withFetchWord 32 1) = .next t ∧ doneState.done = true ∧ t.done = false) ∧
    (∃ t, step (doneState.withPort [.txn (writeTxn 0x00C .four 2)]) = .next t ∧ t.done = false) ∧
    (∃ t, step (doneState.withPort [.txn (writeTxn 0x00C .four 1)]) = .next t ∧ t.done = true) ∧
    (∃ t, step (doneState.withPort [.resetAssert]) = .next t ∧ t.done = false) :=
  ⟨⟨_, rfl, by decide⟩, ⟨_, rfl, by decide⟩, ⟨_, rfl, by decide⟩, ⟨_, rfl, by decide⟩,
    ⟨_, rfl, by decide⟩, ⟨_, rfl, by decide⟩, ⟨_, rfl, by decide⟩⟩

theorem witness_OnlyATransactionDuringResetStops :
    (busyEncode.withPort [.txn (cmdWrite 1), .resetRelease, .engineSlot]).resetAsserted = false ∧
    ∀ e ∈ (busyEncode.withPort [.txn (cmdWrite 1), .resetRelease, .engineSlot]).port,
      e ≠ .resetAssert := by decide

theorem witness_WhatChangesErr :
    (∃ t, step busyDecode = .next t ∧ t.err ≠ busyDecode.err) ∧
    (∃ t, step (State.reset.withFetchWord 32 0x10) = .next t ∧ t.err ≠ State.reset.err) ∧
    decode 0x10 ≠ .command .nop ∧
    (∃ t, step (doneState.withPort [.resetRelease]) = .next t ∧ t.err ≠ doneState.err) :=
  ⟨⟨_, rfl, by decide⟩, ⟨_, rfl, by decide⟩, by decide, ⟨_, rfl, by decide⟩⟩

theorem witness_WhatChangesIeAndInLen :
    (∃ t, step (State.reset.withPort [.txn (writeTxn 0x004 .four 1)]) = .next t ∧
      t.ie ≠ State.reset.ie) ∧
    (∃ t, step (State.reset.withPort [.txn (writeTxn 0x010 .four 7)]) = .next t ∧
      t.inLen ≠ State.reset.inLen) ∧
    (∃ t, step (overlong.withPort [.resetAssert]) = .next t ∧ t.inLen ≠ overlong.inLen) :=
  ⟨⟨_, rfl, by decide⟩, ⟨_, rfl, by decide⟩, ⟨_, rfl, by decide⟩⟩

theorem witness_WhatChangesTheBuffers :
    (∃ t, step ((idleWith [0x66]).withPort [.txn (writeTxn 0x10000 .one 0x41)]) = .next t ∧
      t.octetAt (inAddr 0) ≠ (idleWith [0x66]).octetAt (inAddr 0)) ∧
    (∃ t, step { busyEncode with mem := busyEncode.mem ++ [(outAddr 0, 0)] } = .next t ∧
      t.octetAt (outAddr 0) ≠ 0) :=
  ⟨⟨_, rfl, by decide⟩, ⟨_, rfl, by decide⟩⟩

end Sys2Proof.Tests
end

section
/-! Blocks that differ in BUS_PROTOCOL and RESET_KIND alone (00_scope.md R6): every operation of the
model commutes with `withPhysical`. The reads and the updates of single elements are congruences by
computation; the loops are inductions over their fuel; a step is a case split over the port. -/

namespace Sys2Proof.PhysicalParameters

open Sys2Proof.Machine Sys2Proof.Claims

variable (s : State) (b : Config.BusProtocol) (k : Config.ResetKind)

/-- The raise of a block with another BUS_PROTOCOL and RESET_KIND: the same report, in its state. -/
def raisedWithPhysical (r : Raised) : Raised := { r with at_ := withPhysical r.at_ b k }

/-- The result of the decoder's stages in a block with another BUS_PROTOCOL and RESET_KIND. -/
def stagesWithPhysical : Except Raised State → Except Raised State
  | .ok t => .ok (withPhysical t b k)
  | .error r => .error (raisedWithPhysical b k r)

/-- The outcome of a step of a block with another BUS_PROTOCOL and RESET_KIND. -/
def outcomeWithPhysical : Host.Outcome State Fault Refusal → Host.Outcome State Fault Refusal
  | .next t => .next (withPhysical t b k)
  | .fault f => .fault f
  | .refused r => .refused r

@[simp] theorem stagesWithPhysical_ok (t : State) :
    stagesWithPhysical b k (.ok t) = .ok (withPhysical t b k) := rfl

@[simp] theorem stagesWithPhysical_error (r : Raised) :
    stagesWithPhysical b k (.error r) = .error (raisedWithPhysical b k r) := rfl

@[simp] theorem outcomeWithPhysical_next (t : State) :
    outcomeWithPhysical b k (.next t) = .next (withPhysical t b k) := rfl

/-! ### What is read -/

@[simp] theorem withPhysical_busy : (withPhysical s b k).busy = s.busy := rfl
@[simp] theorem withPhysical_eng : (withPhysical s b k).eng = s.eng := rfl
@[simp] theorem inOctet_withPhysical (i : Nat) : (withPhysical s b k).inOctet i = s.inOctet i := rfl

/-- The address map reads the two capacities only (20_memory.md R61, R66). -/
@[simp] theorem placeOf_withPhysical (t : Txn) : placeOf (withPhysical s b k).cfg t = placeOf s.cfg t := rfl

/-- INCAP and OUTCAP read the capacities only (10_state.md R32, R33). -/
@[simp] theorem readReg_withPhysical (r : Reg) : (withPhysical s b k).readReg r = s.readReg r := by
  cases r <;> rfl

/-! ### Updates without a branch -/

@[simp] theorem answer_withPhysical (r : Response) :
    (withPhysical s b k).answer r = withPhysical (s.answer r) b k := rfl

@[simp] theorem withPort_withPhysical (rest : List Event) :
    (withPhysical s b k).withPort rest = withPhysical (s.withPort rest) b k := rfl

@[simp] theorem clearDone_withPhysical :
    (withPhysical s b k).clearDone = withPhysical s.clearDone b k := rfl

@[simp] theorem complete_withPhysical (e : ErrCode) (ch : Byte) (len : Nat) :
    (withPhysical s b k).complete e ch len = withPhysical (s.complete e ch len) b k := rfl

@[simp] theorem enterReset_withPhysical :
    (withPhysical s b k).enterReset = withPhysical s.enterReset b k := rfl

@[simp] theorem leaveReset_withPhysical :
    (withPhysical s b k).leaveReset = withPhysical s.leaveReset b k := rfl

@[simp] theorem emit_withPhysical (o : Byte) :
    (withPhysical s b k).emit o = withPhysical (s.emit o) b k := rfl

@[simp] theorem emitGroup_withPhysical :
    (withPhysical s b k).emitGroup = withPhysical s.emitGroup b k := rfl

@[simp] theorem pushSymbol_withPhysical (v : BitVec 5) :
    (withPhysical s b k).pushSymbol v = withPhysical (s.pushSymbol v) b k := rfl

@[simp] theorem popOctet_withPhysical :
    (withPhysical s b k).popOctet = withPhysical s.popOctet b k := rfl

@[simp] theorem nextOctet_withPhysical :
    (withPhysical s b k).nextOctet = withPhysical s.nextOctet b k := rfl

@[simp] theorem seePad_withPhysical :
    (withPhysical s b k).seePad = withPhysical s.seePad b k := rfl

/-- A branch whose condition both blocks share: the form every branching operation below has. -/
theorem withPhysical_ite (c : Prop) [Decidable c] (t u : State) :
    withPhysical (if c then t else u) b k = if c then withPhysical t b k else withPhysical u b k :=
  apply_ite (withPhysical · b k) c t u

/-! ### The stages of ENCODE (41_encode.md R131 to R136) -/

theorem groupLoop_withPhysical (fuel : Nat) :
    groupLoop fuel (withPhysical s b k) = withPhysical (groupLoop fuel s) b k := by
  induction fuel generalizing s with
  | zero => rfl
  | succ n ih => simp [groupLoop, withPhysical_ite, ih]

theorem grouperStep_withPhysical :
    (withPhysical s b k).grouperStep = withPhysical s.grouperStep b k :=
  groupLoop_withPhysical s.takeOctet b k _

theorem grouperLoop_withPhysical (fuel : Nat) :
    grouperLoop fuel (withPhysical s b k) = withPhysical (grouperLoop fuel s) b k := by
  induction fuel generalizing s with
  | zero => rfl
  | succ n ih => simp only [grouperLoop, grouperStep_withPhysical, ih]

theorem grouperFlush_withPhysical :
    (withPhysical s b k).grouperFlush = withPhysical s.grouperFlush b k := by
  unfold State.grouperFlush
  rw [withPhysical_ite]
  rfl

theorem padLoop_withPhysical (fuel : Nat) :
    padLoop fuel (withPhysical s b k) = withPhysical (padLoop fuel s) b k := by
  induction fuel generalizing s with
  | zero => rfl
  | succ n ih => simp [padLoop, withPhysical_ite, ih]

theorem runEncode_withPhysical : (withPhysical s b k).runEncode = withPhysical s.runEncode b k := by
  simp [State.runEncode, State.encodeStages, State.pad, grouperLoop_withPhysical,
    grouperFlush_withPhysical, padLoop_withPhysical]

/-! ### The stages of DECODE (42_decode.md R163 to R172) -/

theorem unpack_withPhysical (v : BitVec 5) :
    (withPhysical s b k).unpack v = withPhysical (s.unpack v) b k := by
  simp [State.unpack, withPhysical_ite]

theorem decodeOctet_withPhysical :
    (withPhysical s b k).decodeOctet = stagesWithPhysical b k s.decodeOctet := by
  cases hc : classify s.eng.h (s.inOctet s.eng.rd) with
  | ws => simp [State.decodeOctet, hc]
  | pad => simp [State.decodeOctet, hc]
  | sym v =>
    cases hp : s.eng.padSeen with
    | false => simp [State.decodeOctet, hc, hp, unpack_withPhysical]
    | true => simp [State.decodeOctet, hc, hp, raisedWithPhysical]
  | bad x => cases hp : s.eng.padSeen <;> simp [State.decodeOctet, hc, hp, raisedWithPhysical]

theorem decodeLoop_withPhysical (fuel : Nat) :
    decodeLoop fuel (withPhysical s b k) = stagesWithPhysical b k (decodeLoop fuel s) := by
  induction fuel generalizing s with
  | zero => rfl
  | succ n ih =>
    simp only [decodeLoop, decodeOctet_withPhysical]
    cases s.decodeOctet with
    | ok t => exact ih t
    | error r => rfl

theorem decodeStages_withPhysical :
    (withPhysical s b k).decodeStages = stagesWithPhysical b k s.decodeStages := by
  simp only [State.decodeStages, withPhysical_eng, decodeLoop_withPhysical]
  cases decodeLoop (s.eng.n - s.eng.rd) s with
  | ok t => cases hu : u8Accepts t.eng.checker <;> simp [hu, raisedWithPhysical]
  | error r => rfl

theorem runDecode_withPhysical : (withPhysical s b k).runDecode = withPhysical s.runDecode b k := by
  simp only [State.runDecode, decodeStages_withPhysical]
  cases s.decodeStages <;> rfl

theorem engineTurn_withPhysical : (withPhysical s b k).engineTurn = withPhysical s.engineTurn b k := by
  have hrun : (withPhysical s b k).runCommand = withPhysical s.runCommand b k := by
    simp only [State.runCommand, withPhysical_eng]
    cases s.eng.op with
    | encode => exact runEncode_withPhysical s b k
    | decode => exact runDecode_withPhysical s b k
  simp [State.engineTurn, withPhysical_ite, hrun]

/-! ### The host's transactions (20_memory.md R60) -/

theorem dispatchCommand_withPhysical (op : EngineOp) (h : Alphabet) :
    (withPhysical s b k).dispatchCommand op h = withPhysical (s.dispatchCommand op h) b k := by
  unfold State.dispatchCommand
  rw [withPhysical_ite, withPhysical_ite]
  rfl

theorem exec_withPhysical (i : Instr) :
    exec i (withPhysical s b k) = outcomeWithPhysical b k (exec i s) := by
  cases i with
  | nop => rfl
  | encodeStd => simp [exec_encodeStd, dispatchCommand_withPhysical]
  | encodeHex => simp [exec_encodeHex, dispatchCommand_withPhysical]
  | decodeStd => simp [exec_decodeStd, dispatchCommand_withPhysical]
  | decodeHex => simp [exec_decodeHex, dispatchCommand_withPhysical]

theorem rejectCommand_withPhysical :
    (withPhysical s b k).rejectCommand = withPhysical s.rejectCommand b k := by
  unfold State.rejectCommand
  rw [withPhysical_ite]
  rfl

theorem writeCmd_withPhysical (w : Word) :
    (withPhysical s b k).writeCmd w = outcomeWithPhysical b k (s.writeCmd w) := by
  simp only [State.writeCmd]
  cases decode w with
  | command i => exact exec_withPhysical s b k i
  | illegal why => simp [rejectCommand_withPhysical]

theorem writeInLen_withPhysical (v : Word) :
    (withPhysical s b k).writeInLen v = withPhysical (s.writeInLen v) b k := by
  unfold State.writeInLen
  rw [withPhysical_ite]
  rfl

theorem writeInput_withPhysical (i n : Nat) (v : Word) :
    (withPhysical s b k).writeInput i n v = withPhysical (s.writeInput i n v) b k := by
  unfold State.writeInput
  rw [withPhysical_ite]
  rfl

theorem readOutput_withPhysical (i n : Nat) :
    (withPhysical s b k).readOutput i n = withPhysical (s.readOutput i n) b k := by
  unfold State.readOutput
  rw [withPhysical_ite]
  rfl

theorem writeReg_withPhysical (r : Reg) (v : Word) :
    (withPhysical s b k).writeReg r v = outcomeWithPhysical b k (s.writeReg r v) := by
  cases r with
  | cmd => exact writeCmd_withPhysical s b k v
  | status => simp [State.writeReg, State.writeStatus, withPhysical_ite]
  | inLen => simp [State.writeReg, writeInLen_withPhysical]
  | ctrl => rfl
  | id => rfl
  | outLen => rfl
  | inCap => rfl
  | outCap => rfl
  | reserved => rfl

theorem perform_withPhysical (t : Txn) :
    (withPhysical s b k).perform t = outcomeWithPhysical b k (s.perform t) := by
  simp only [State.perform, placeOf_withPhysical]
  cases placeOf s.cfg t with
  | busErr => rfl
  | reg r =>
    cases t.access with
    | read => simp
    | write v => exact writeReg_withPhysical (s.answer .ok) b k r v
  | inBuf i =>
    cases t.access with
    | read => rfl
    | write v => simp [writeInput_withPhysical]
  | outBuf i =>
    cases t.access with
    | read => simp [readOutput_withPhysical]
    | write v => rfl

/-! ### A step -/

/-- The diagram of 00_scope.md R6: changing the two parameters before a step or after it is the same. -/
theorem step_withPhysical : step (withPhysical s b k) = outcomeWithPhysical b k (step s) := by
  cases hp : s.port with
  | nil =>
    have hp' : (withPhysical s b k).port = [] := hp
    simp [step_idlePort hp, step_idlePort hp', engineTurn_withPhysical]
  | cons e rest =>
    have hp' : (withPhysical s b k).port = e :: rest := hp
    cases e with
    | txn t =>
      cases hr : s.resetAsserted with
      | false =>
        rw [step_txn hp hr, step_txn hp' hr]
        exact perform_withPhysical (s.withPort rest) b k t
      | true =>
        rw [step_txn_duringReset hp hr, step_txn_duringReset hp' hr]
        rfl
    | engineSlot => simp [step_engineSlot hp, step_engineSlot hp', engineTurn_withPhysical]
    | resetAssert => simp [step_resetAssert hp, step_resetAssert hp']
    | resetRelease => simp [step_resetRelease hp, step_resetRelease hp']

/-- The level of the pin that asserts reset is 1 for an active-high input and 0 for an active-low one. -/
theorem resetEvent_eq_ite (p : Config.Params) (pin : Bool) :
    resetEvent p pin = if pin = decide (p.resetKind.polarity = .activeHigh) then .resetAssert
      else .resetRelease := by
  unfold resetEvent resetAsserts
  cases p.resetKind.polarity <;> cases pin <;> rfl

end Sys2Proof.PhysicalParameters

namespace Sys2Proof

open PhysicalParameters

/-- Settles O59: a step commutes with the change of the two parameters, so the outcome `next` goes to
the changed state and the outcome `refused` stays; the polarity clause is a split over pin and polarity. -/
theorem physicalParametersDoNotMatter : Obligations.PhysicalParametersDoNotMatter := by
  unfold Obligations.PhysicalParametersDoNotMatter
  refine ⟨fun s b k => ⟨fun t ht => ?_, fun r hr => ?_⟩, resetEvent_eq_ite⟩
  · rw [step_withPhysical, ht]; rfl
  · rw [step_withPhysical, hr]; rfl

end Sys2Proof
end

section
/-! The dispatch of a command word by its three branches (43_control.md R200 to R204). -/

namespace Sys2Proof.Dispatch

open Sys2Proof.Machine

/-- Every command word but NOP's is the dispatch of one operation in one alphabet. -/
theorem exec_eq_dispatchCommand {i : Instr} (hi : i ≠ .nop) :
    ∃ op h, ∀ s, exec i s = .next (s.dispatchCommand op h) := by
  cases i with
  | nop => exact absurd rfl hi
  | encodeStd => exact ⟨_, _, exec_encodeStd⟩
  | encodeHex => exact ⟨_, _, exec_encodeHex⟩
  | decodeStd => exact ⟨_, _, exec_decodeStd⟩
  | decodeHex => exact ⟨_, _, exec_decodeHex⟩

variable {s : State} (hb : s.busy = false) (op : EngineOp) (h : Alphabet)
include hb

theorem dispatchCommand_overlong (hl : s.cfg.inBufSize < s.inLen.toNat) :
    s.dispatchCommand op h = s.complete .badLen 0 0 := by
  simp [State.dispatchCommand, State.lengthTooLong, hb, hl]

theorem dispatchCommand_legal (hl : s.inLen.toNat ≤ s.cfg.inBufSize) :
    s.dispatchCommand op h = s.start op h := by
  simp [State.dispatchCommand, State.lengthTooLong, hb, hl]

end Sys2Proof.Dispatch
end

section
/-! The counts of the engine's stages (41_encode.md R131, 42_decode.md R168, R172): how far one turn of
the grouper or of the decoder's loop moves `e.rd`, `e.wr` and `e.nb`, from any state. -/

namespace Sys2Proof.StageCounts

open Sys2Proof.Machine

/-! ### The encoder's stages -/

/-- The grouper's loop turns 5 held bits into one octet until fewer than 5 are held. -/
theorem groupLoop_counts (fuel : Nat) (s : State) (hf : s.eng.nb ≤ fuel) :
    (groupLoop fuel s).eng.rd = s.eng.rd ∧ (groupLoop fuel s).eng.nb ≤ 4 ∧
    5 * (groupLoop fuel s).eng.wr + (groupLoop fuel s).eng.nb = 5 * s.eng.wr + s.eng.nb := by
  induction fuel generalizing s with
  | zero => exact ⟨rfl, by simp only [groupLoop]; omega, rfl⟩
  | succ k ih =>
    unfold groupLoop
    split
    next hlt => exact ⟨rfl, by omega, rfl⟩
    next hge =>
      have hrd : s.emitGroup.eng.rd = s.eng.rd := rfl
      have hwr : s.emitGroup.eng.wr = s.eng.wr + 1 := rfl
      have hnb : s.emitGroup.eng.nb = s.eng.nb - 5 := rfl
      obtain ⟨h1, h2, h3⟩ := ih s.emitGroup (by omega)
      exact ⟨h1.trans hrd, h2, by omega⟩

theorem grouperStep_counts (s : State) :
    s.grouperStep.eng.rd = s.eng.rd + 1 ∧ s.grouperStep.eng.nb ≤ 4 ∧
    5 * s.grouperStep.eng.wr + s.grouperStep.eng.nb = 5 * s.eng.wr + s.eng.nb + 8 :=
  groupLoop_counts _ s.takeOctet le_rfl

/-! ### The decoder's stages -/

/-- Everything one turn of the decoder's loop can be: every turn steps over its octet, and then counts
an `=`, unpacks a symbol, or raises. -/
theorem decodeOctet_cases (s : State) :
    s.decodeOctet = .ok s.nextOctet ∨ s.decodeOctet = .ok s.nextOctet.seePad ∨
    (∃ v, s.decodeOctet = .ok (s.nextOctet.unpack v)) ∨
    (∃ ch, s.decodeOctet = .error ⟨.invalidChar, ch, s.nextOctet⟩) := by
  unfold State.decodeOctet
  cases classify s.eng.h (s.inOctet s.eng.rd) with
  | ws => exact .inl rfl
  | pad => exact .inr (.inl rfl)
  | sym v =>
    cases hp : s.nextOctet.eng.padSeen with
    | false => exact .inr (.inr (.inl ⟨v, by simp only [hp]; rfl⟩))
    | true => exact .inr (.inr (.inr ⟨padOctet, by simp only [hp]; rfl⟩))
  | bad x =>
    cases hp : s.nextOctet.eng.padSeen with
    | false => exact .inr (.inr (.inr ⟨x, by simp only [hp]; rfl⟩))
    | true => exact .inr (.inr (.inr ⟨padOctet, by simp only [hp]; rfl⟩))

/-- A symbol adds 5 held bits, of which 8 may leave as one octet. -/
theorem unpack_counts (s : State) (v : BitVec 5) :
    (s.unpack v).eng.rd = s.eng.rd ∧ (s.eng.nb ≤ 7 → (s.unpack v).eng.nb ≤ 7) ∧
    8 * (s.unpack v).eng.wr + (s.unpack v).eng.nb = 8 * s.eng.wr + s.eng.nb + 5 := by
  have hnb : (s.pushSymbol v).eng.nb = s.eng.nb + 5 := rfl
  unfold State.unpack
  simp only
  split
  next h8 =>
    have hpop : (s.pushSymbol v).popOctet.eng.nb = (s.pushSymbol v).eng.nb - 8 := rfl
    have hwr : (s.pushSymbol v).popOctet.eng.wr = s.eng.wr + 1 := rfl
    exact ⟨rfl, by omega, by omega⟩
  next h8 =>
    have hwr : (s.pushSymbol v).eng.wr = s.eng.wr := rfl
    exact ⟨rfl, by omega, by omega⟩

theorem decodeOctet_rd {s t : State} (h : s.decodeOctet = .ok t) : t.eng.rd = s.eng.rd + 1 := by
  rcases decodeOctet_cases s with e | e | ⟨v, e⟩ | ⟨ch, e⟩ <;> rw [e] at h <;> cases h
  · rfl
  · rfl
  · exact (unpack_counts s.nextOctet v).1

end Sys2Proof.StageCounts
end

section
/-! A command's results depend on its input alone (10_state.md R41): two blocks at the same point of a
command, with the same input octets and the same output written so far, stay together through every
stage, whatever else they hold. -/

namespace Sys2Proof.Independence

open Sys2Proof.Machine Sys2Proof.Claims Sys2Proof.StageCounts

/-- The offsets the running command depends on: its input, and the output it has written. -/
def Covered (e : Engine) (a : Nat) : Prop :=
  (inAddr 0 ≤ a ∧ a < inAddr e.n) ∨ (outAddr 0 ≤ a ∧ a < outAddr e.wr)

/-- Two blocks at the same point of the same command. -/
structure SameWork (s t : State) : Prop where
  eng : s.eng = t.eng
  octets : ∀ a, Covered s.eng a → s.octetAt a = t.octetAt a

/-- The stages of DECODE ended at the same point, with the same report if they raised. -/
inductive SameEnd : Except Raised State → Except Raised State → Prop
  | ok {s t : State} : SameWork s t → SameEnd (.ok s) (.ok t)
  | error (e : ErrCode) (ch : Byte) {s t : State} : SameEnd (.error ⟨e, ch, s⟩) (.error ⟨e, ch, t⟩)

namespace SameWork

variable {s t : State}

theorem inOctet (w : SameWork s t) {i : Nat} (hi : i < s.eng.n) : s.inOctet i = t.inOctet i :=
  w.octets _ (.inl (by simp only [inAddr]; omega))

theorem memReadOut (w : SameWork s t) {n : Nat} (hn : n ≤ s.eng.wr) :
    s.memReadOut 0 n = t.memReadOut 0 n := by
  refine List.map_congr_left fun k hk => w.octets _ (.inr ?_)
  have := List.mem_range.mp hk
  simp only [outAddr]
  omega

/-- A change of engine elements that covers no more octets. -/
theorem setEngine (w : SameWork s t) (e : Engine) (hn : e.n = s.eng.n) (hw : e.wr = s.eng.wr) :
    SameWork { s with eng := e } { t with eng := e } :=
  ⟨rfl, fun a ha => w.octets a (by simpa only [Covered, hn, hw] using ha)⟩

/-- The write of the next output octet: the newly covered octet is the one written. -/
theorem writeNext (w : SameWork s t) (o : Byte) (e : Engine) (hn : e.n = s.eng.n)
    (hw : e.wr = s.eng.wr + 1) :
    SameWork { s.memWriteOut s.eng.wr o with eng := e } { t.memWriteOut s.eng.wr o with eng := e } := by
  refine ⟨rfl, fun a ha => ?_⟩
  change (s.memWriteOut s.eng.wr o).octetAt a = (t.memWriteOut s.eng.wr o).octetAt a
  rw [State.octetAt_memWriteOut, State.octetAt_memWriteOut]
  split
  next => rfl
  next hne =>
    refine w.octets a ?_
    simp only [Covered, hn, hw, outAddr] at ha hne ⊢
    omega

/-! ### The encoder's stages -/

theorem emit (w : SameWork s t) (o : Byte) : SameWork (s.emit o) (t.emit o) := by
  unfold State.emit
  rw [← w.eng]
  exact w.writeNext o _ rfl rfl

theorem emitGroup (w : SameWork s t) : SameWork s.emitGroup t.emitGroup := by
  unfold State.emitGroup State.emit
  rw [← w.eng]
  exact w.writeNext _ _ rfl rfl

theorem groupLoop (w : SameWork s t) (fuel : Nat) : SameWork (groupLoop fuel s) (groupLoop fuel t) := by
  induction fuel generalizing s t with
  | zero => exact w
  | succ k ih =>
    unfold Machine.groupLoop
    rw [← w.eng]
    split
    · exact w
    · exact ih w.emitGroup

theorem takeOctet (w : SameWork s t) (h : s.eng.rd < s.eng.n) : SameWork s.takeOctet t.takeOctet := by
  unfold State.takeOctet
  rw [← w.eng, ← w.inOctet h]
  exact w.setEngine _ rfl rfl

theorem grouperStep (w : SameWork s t) (h : s.eng.rd < s.eng.n) :
    SameWork s.grouperStep t.grouperStep := by
  unfold State.grouperStep
  simp only
  rw [← (w.takeOctet h).eng]
  exact (w.takeOctet h).groupLoop _

theorem grouperLoop (w : SameWork s t) (fuel : Nat) (h : s.eng.rd + fuel ≤ s.eng.n) :
    SameWork (grouperLoop fuel s) (grouperLoop fuel t) := by
  induction fuel generalizing s t with
  | zero => exact w
  | succ k ih =>
    refine ih (w.grouperStep (by omega)) ?_
    rw [(grouperStep_counts s).1, s.grouperStep_frame.n]
    omega

theorem grouperFlush (w : SameWork s t) : SameWork s.grouperFlush t.grouperFlush := by
  unfold State.grouperFlush State.emit
  rw [← w.eng]
  split
  · exact w.writeNext _ _ rfl rfl
  · exact w

theorem padLoop (w : SameWork s t) (fuel : Nat) : SameWork (padLoop fuel s) (padLoop fuel t) := by
  induction fuel generalizing s t with
  | zero => exact w
  | succ k ih =>
    unfold Machine.padLoop
    rw [← w.eng]
    split
    · exact w
    · exact ih (w.emit padOctet)

theorem encodeStages (w : SameWork s t) (h : s.eng.rd ≤ s.eng.n) :
    SameWork s.encodeStages t.encodeStages := by
  unfold State.encodeStages
  rw [← w.eng]
  exact ((w.grouperLoop _ (by omega)).grouperFlush).padLoop 8

/-! ### The decoder's stages -/

theorem unpack (w : SameWork s t) (v : BitVec 5) : SameWork (s.unpack v) (t.unpack v) := by
  have w' : SameWork (s.pushSymbol v) (t.pushSymbol v) := by
    unfold State.pushSymbol
    rw [← w.eng]
    exact w.setEngine _ rfl rfl
  unfold State.unpack
  simp only
  rw [← w'.eng]
  split
  · unfold State.popOctet State.outOctetStep
    rw [← w'.eng]
    exact w'.writeNext _ _ rfl rfl
  · exact w'

theorem decodeOctet (w : SameWork s t) (h : s.eng.rd < s.eng.n) :
    SameEnd s.decodeOctet t.decodeOctet := by
  have w' : SameWork s.nextOctet t.nextOctet := by
    unfold State.nextOctet
    rw [← w.eng]
    exact w.setEngine _ rfl rfl
  unfold State.decodeOctet
  simp only
  rw [← w'.eng, ← w.eng, ← w.inOctet h]
  cases classify s.eng.h (s.inOctet s.eng.rd) with
  | ws => exact .ok w'
  | pad =>
    refine .ok ?_
    unfold State.seePad
    rw [← w'.eng]
    exact w'.setEngine _ rfl rfl
  | sym v =>
    simp only
    split
    · exact .error _ _
    · exact .ok (w'.unpack v)
  | bad x =>
    simp only
    split <;> exact .error _ _

theorem decodeLoop (w : SameWork s t) (fuel : Nat) (h : s.eng.rd + fuel ≤ s.eng.n) :
    SameEnd (decodeLoop fuel s) (decodeLoop fuel t) := by
  induction fuel generalizing s t with
  | zero => exact .ok w
  | succ k ih =>
    unfold Machine.decodeLoop
    have hd := w.decodeOctet (by omega)
    rcases s.decodeOctet_frame with ⟨u, hu, f⟩ | ⟨r, hr, -⟩
    · have hrd := decodeOctet_rd hu
      rw [hu] at hd ⊢
      generalize t.decodeOctet = q at hd ⊢
      cases hd with
      | ok w' => exact ih w' (by rw [hrd, f.n]; omega)
    · rw [hr] at hd ⊢
      generalize t.decodeOctet = q at hd ⊢
      cases hd with
      | error e ch => exact .error e ch

theorem decodeStages (w : SameWork s t) (h : s.eng.rd ≤ s.eng.n) :
    SameEnd s.decodeStages t.decodeStages := by
  unfold State.decodeStages
  rw [← w.eng]
  have hl := w.decodeLoop (s.eng.n - s.eng.rd) (by omega)
  generalize Machine.decodeLoop (s.eng.n - s.eng.rd) s = p at hl ⊢
  generalize Machine.decodeLoop (s.eng.n - s.eng.rd) t = q at hl ⊢
  cases hl with
  | error e ch => exact .error e ch
  | ok w' =>
    simp only
    rw [← w'.eng]
    split
    · exact .ok w'
    · exact .error _ _

/-! ### The results -/

/-- A completion with NONE reports `e.wr` and the octets written. -/
theorem sameResults_complete (w : SameWork s t) :
    SameResults (s.complete .none 0 s.eng.wr) (t.complete .none 0 t.eng.wr) := by
  have hwr : s.eng.wr = t.eng.wr := by rw [w.eng]
  refine ⟨rfl, rfl, rfl, rfl, by simp only [State.complete_outLen, hwr], ?_⟩
  simp only [State.complete_outLen, ← hwr]
  exact w.memReadOut (by simpa using Nat.mod_le _ _)

/-- A completion with an error reports the error and no output. -/
theorem sameResults_error (s t : State) {e : ErrCode} (he : e ≠ .none) (ch : Byte) :
    SameResults (s.complete e ch 0) (t.complete e ch 0) := by
  refine ⟨rfl, rfl, rfl, rfl, rfl, ?_⟩
  simp [State.memReadOut, he]

/-- The engine's turn of two blocks that started the same command on the same input. -/
theorem sameResults_engineTurn (w : SameWork s t) (hs : s.busy = true) (ht : t.busy = true)
    (h : s.eng.rd ≤ s.eng.n) : SameResults s.engineTurn t.engineTurn := by
  simp only [State.engineTurn, hs, ht, if_true, State.runCommand]
  rw [← w.eng]
  cases s.eng.op with
  | encode => exact (w.encodeStages h).sameResults_complete
  | decode =>
    have hd := w.decodeStages h
    have he (r : Raised) (hr : s.decodeStages = .error r) : r.err ≠ .none := by
      rcases s.decodeStages_frame with ⟨u, e, -⟩ | ⟨r', e, -, hc | ⟨hc, -⟩⟩ <;> rw [hr] at e <;> cases e
      · simp [hc]
      · simp [hc]
    simp only [State.runDecode]
    generalize s.decodeStages = p at hd he ⊢
    generalize t.decodeStages = q at hd ⊢
    cases hd with
    | ok w' => exact w'.sameResults_complete
    | error e ch => exact sameResults_error _ _ (he _ rfl) ch

end SameWork

/-- A start from two idle states with the same IN_LEN and input octets. -/
theorem sameWork_start {s t : State} (op : EngineOp) (h : Alphabet) (hlen : s.inLen = t.inLen)
    (hin : ∀ k < s.inLen.toNat, s.inOctet k = t.inOctet k) : SameWork (s.start op h) (t.start op h) := by
  refine ⟨by simp only [State.start_eng, hlen], fun a ha => ?_⟩
  simp only [Covered, State.start_eng, Engine.started, inAddr, outAddr] at ha
  have hk := hin (a - inAddr 0) (by simp only [inAddr]; omega)
  have ha' : inAddr (a - inAddr 0) = a := by simp only [inAddr]; omega
  simpa only [State.octetAt_start, State.inOctet, ha'] using hk

end Sys2Proof.Independence

namespace Sys2Proof

open Machine Claims Dispatch Independence

/-- Settles O34: both states take the same branch of the dispatch. BAD_LEN completes both with the same
report; a start makes them `SameWork`, which the stages keep up to the results. -/
theorem commandsAreIndependent : Obligations.CommandsAreIndependent := by
  unfold Obligations.CommandsAreIndependent
  intro i s t hi _ hcfg hs ht hlen hin
  obtain ⟨op, h, hexec⟩ := exec_eq_dispatchCommand hi
  refine ⟨_, _, hexec s, hexec t, ?_⟩
  by_cases hl : s.cfg.inBufSize < s.inLen.toNat
  · rw [dispatchCommand_overlong hs op h hl, dispatchCommand_overlong ht op h (hcfg ▸ hlen ▸ hl)]
    exact SameWork.sameResults_error s t (by decide) 0
  · rw [dispatchCommand_legal hs op h (by omega),
      dispatchCommand_legal ht op h (by rw [← hcfg, ← hlen]; omega)]
    exact (sameWork_start op h hlen hin).sameResults_engineTurn rfl rfl (Nat.zero_le _)

end Sys2Proof
end

section
/-! The invariant of the machine (10_state.md R28, R31, R40; 20_memory.md R61 to R63; 43_control.md
R208) through every operation. `Sound` is the part a running command keeps at every point between its
stages; the rest of `Inv` holds again when the command has completed. -/

namespace Sys2Proof.InvariantSteps

open Sys2Proof.Machine Sys2Proof.StageCounts

/-! ### What the stages write and how far they come -/

/-- What a stage may write: OUT_BUF octets below the new `e.wr`, which never falls back. -/
structure StageWrites (s t : State) : Prop where
  wr : s.eng.wr ≤ t.eng.wr
  listed : ∀ c ∈ t.mem, c ∈ s.mem ∨ (outAddr 0 ≤ c.1 ∧ c.1 < outAddr t.eng.wr)

namespace StageWrites

theorem refl (s : State) : StageWrites s s := ⟨le_rfl, fun _ hc => .inl hc⟩

theorem trans {s t u : State} (h1 : StageWrites s t) (h2 : StageWrites t u) : StageWrites s u where
  wr := h1.wr.trans h2.wr
  listed c hc := by
    have hwr := h2.wr
    rcases h2.listed c hc with hc | hc
    · exact (h1.listed c hc).imp_right fun hc => by simp only [outAddr] at *; omega
    · exact .inr hc

/-- A change of engine elements that leaves `e.wr`. -/
theorem ofEngine (s : State) (e : Engine) (hw : e.wr = s.eng.wr) : StageWrites s { s with eng := e } :=
  ⟨hw.ge, fun _ hc => .inl hc⟩

/-- The write of the next output octet. -/
theorem writeNext (s : State) (o : Byte) (e : Engine) (hw : e.wr = s.eng.wr + 1) :
    StageWrites s { s.memWriteOut s.eng.wr o with eng := e } where
  wr := by simp only [hw]; omega
  listed c hc := by
    rcases Memory.mem_write hc with hc | hc
    · simp only [hc, hw, outAddr]; omega
    · exact .inl hc

end StageWrites

theorem groupLoop_writes (fuel : Nat) (s : State) : StageWrites s (groupLoop fuel s) := by
  induction fuel generalizing s with
  | zero => exact .refl s
  | succ k ih =>
    unfold groupLoop
    split
    · exact .refl s
    · exact (StageWrites.writeNext s _ _ rfl).trans (ih s.emitGroup)

theorem grouperStep_writes (s : State) : StageWrites s s.grouperStep :=
  have htake : StageWrites s s.takeOctet := .ofEngine s _ rfl
  htake.trans (groupLoop_writes _ _)

theorem grouperLoop_writes (fuel : Nat) (s : State) : StageWrites s (grouperLoop fuel s) := by
  induction fuel generalizing s with
  | zero => exact .refl s
  | succ k ih => exact (grouperStep_writes s).trans (ih _)

theorem grouperFlush_writes (s : State) : StageWrites s s.grouperFlush := by
  unfold State.grouperFlush
  split
  · exact .writeNext s _ _ rfl
  · exact .refl s

theorem padLoop_writes (fuel : Nat) (s : State) : StageWrites s (padLoop fuel s) := by
  induction fuel generalizing s with
  | zero => exact .refl s
  | succ k ih =>
    unfold padLoop
    split
    · exact .refl s
    · exact (StageWrites.writeNext s _ _ rfl).trans (ih _)

theorem encodeStages_writes (s : State) : StageWrites s s.encodeStages :=
  ((grouperLoop_writes _ s).trans (grouperFlush_writes _)).trans (padLoop_writes _ _)

/-! ### The counts of ENCODE (41_encode.md R131 to R134) -/

theorem grouperLoop_counts (fuel : Nat) (s : State) (h : s.eng.nb ≤ 4) :
    (grouperLoop fuel s).eng.rd = s.eng.rd + fuel ∧ (grouperLoop fuel s).eng.nb ≤ 4 ∧
    5 * (grouperLoop fuel s).eng.wr + (grouperLoop fuel s).eng.nb =
      5 * s.eng.wr + s.eng.nb + 8 * fuel := by
  induction fuel generalizing s with
  | zero => exact ⟨rfl, h, rfl⟩
  | succ k ih =>
    obtain ⟨hrd, hnb, hbits⟩ := grouperStep_counts s
    obtain ⟨hrd', hnb', hbits'⟩ := ih s.grouperStep hnb
    simp only [grouperLoop]
    exact ⟨by omega, hnb', by omega⟩

theorem grouperFlush_counts (s : State) :
    s.grouperFlush.eng.rd = s.eng.rd ∧ s.grouperFlush.eng.nb = 0 ∧
    s.grouperFlush.eng.wr = s.eng.wr + if 0 < s.eng.nb then 1 else 0 := by
  unfold State.grouperFlush
  split
  next => exact ⟨rfl, rfl, rfl⟩
  next h => exact ⟨rfl, by omega, rfl⟩

/-- The padding counter, modulo 8, says how many octets are missing from a full group. -/
theorem padLoop_counts (fuel : Nat) (s : State) (h : (-s.eng.symcnt).toNat ≤ fuel) :
    (padLoop fuel s).eng.rd = s.eng.rd ∧ (padLoop fuel s).eng.nb = s.eng.nb ∧
    (padLoop fuel s).eng.wr = s.eng.wr + (-s.eng.symcnt).toNat := by
  induction fuel generalizing s with
  | zero => exact ⟨rfl, rfl, by simp only [padLoop]; omega⟩
  | succ k ih =>
    unfold padLoop
    split
    next h0 => exact ⟨rfl, rfl, by simp [h0]⟩
    next h0 =>
      have hcnt : (s.emit padOctet).eng.symcnt = s.eng.symcnt + 1 := rfl
      have hwr : (s.emit padOctet).eng.wr = s.eng.wr + 1 := rfl
      have hneg : (-s.eng.symcnt).toNat = (-(s.eng.symcnt + 1)).toNat + 1 := by bv_omega
      obtain ⟨hrd, hnb, hwr'⟩ := ih (s.emit padOctet) (by rw [hcnt]; omega)
      rw [hcnt] at hwr'
      exact ⟨hrd, hnb, by omega⟩

/-- `e.symcnt` is `e.wr` modulo 8 (10_state.md R40). -/
def CountsOctets (s : State) : Prop := s.eng.symcnt = BitVec.ofNat 3 s.eng.wr

theorem CountsOctets.next {s t : State} (h : CountsOctets s) (hwr : t.eng.wr = s.eng.wr + 1)
    (hcnt : t.eng.symcnt = s.eng.symcnt + 1) : CountsOctets t := by
  unfold CountsOctets at *
  rw [hcnt, hwr, h, BitVec.ofNat_add]
  rfl

theorem CountsOctets.groupLoop {s : State} (h : CountsOctets s) (fuel : Nat) :
    CountsOctets (groupLoop fuel s) := by
  induction fuel generalizing s with
  | zero => exact h
  | succ k ih =>
    unfold Machine.groupLoop
    split
    · exact h
    · exact ih (h.next rfl rfl)

theorem CountsOctets.grouperLoop {s : State} (h : CountsOctets s) (fuel : Nat) :
    CountsOctets (grouperLoop fuel s) := by
  induction fuel generalizing s with
  | zero => exact h
  | succ k ih => exact ih (CountsOctets.groupLoop (s := s.takeOctet) h _)

theorem CountsOctets.grouperFlush {s : State} (h : CountsOctets s) : CountsOctets s.grouperFlush := by
  unfold State.grouperFlush
  split
  · exact h.next rfl rfl
  · exact h

/-- ENCODE of `n` octets reads them all and writes `8 * ceil(n / 5)` octets (41_encode.md R137). -/
theorem encodeStages_counts {s : State} {h : Alphabet} {n : Nat}
    (he : s.eng = Engine.started .encode h n) :
    s.encodeStages.eng.rd = n ∧ s.encodeStages.eng.nb = 0 ∧
    s.encodeStages.eng.wr = 8 * ceilDiv n 5 := by
  have hrd0 : s.eng.rd = 0 := by rw [he]; rfl
  have hwr0 : s.eng.wr = 0 := by rw [he]; rfl
  have hnb0 : s.eng.nb = 0 := by rw [he]; rfl
  have hn : s.eng.n - s.eng.rd = n := by rw [he]; rfl
  have hcnt0 : CountsOctets s := by unfold CountsOctets; rw [he]; rfl
  have hcnt := (hcnt0.grouperLoop n).grouperFlush
  obtain ⟨hrd, hnb, hbits⟩ := grouperLoop_counts n s (by omega)
  obtain ⟨hrd', hnb', hwr'⟩ := grouperFlush_counts (grouperLoop n s)
  obtain ⟨hrd'', hnb'', hwr''⟩ := padLoop_counts 8 (grouperLoop n s).grouperFlush (by omega)
  unfold State.encodeStages State.pad
  rw [hn]
  refine ⟨by omega, by omega, ?_⟩
  unfold CountsOctets at hcnt
  rw [hcnt, BitVec.toNat_neg, BitVec.toNat_ofNat] at hwr''
  rw [hwr'', hwr']
  unfold ceilDiv
  split <;> omega

/-! ### The counts of DECODE (42_decode.md R168, R172) -/

/-- The state in which the stages of DECODE ended, with or without a raise. -/
def reached : Except Raised State → State
  | .ok t => t
  | .error r => r.at_

/-- What the decoder does in at most `k` turns: each octet read brings at most 5 bits, and 8 held bits
leave as one octet. -/
structure Unpacks (k : Nat) (s t : State) : Prop where
  writes : StageWrites s t
  rd : t.eng.rd ≤ s.eng.rd + k
  nb : s.eng.nb ≤ 7 → t.eng.nb ≤ 7
  bits : 8 * t.eng.wr + t.eng.nb ≤ 8 * s.eng.wr + s.eng.nb + 5 * k

theorem Unpacks.trans {k l : Nat} {s t u : State} (h1 : Unpacks k s t) (h2 : Unpacks l t u) :
    Unpacks (l + k) s u where
  writes := h1.writes.trans h2.writes
  rd := by have := h1.rd; have := h2.rd; omega
  nb h := h2.nb (h1.nb h)
  bits := by have := h1.bits; have := h2.bits; omega

theorem nextOctet_unpacks (s : State) : Unpacks 1 s s.nextOctet :=
  ⟨.ofEngine s _ rfl, le_rfl, id, by simp⟩

theorem unpack_writes (s : State) (v : BitVec 5) : StageWrites s (s.unpack v) := by
  have hpush : StageWrites s (s.pushSymbol v) := .ofEngine s _ rfl
  unfold State.unpack
  simp only
  split
  · exact hpush.trans (.writeNext (s.pushSymbol v) _ _ rfl)
  · exact hpush

theorem decodeOctet_unpacks (s : State) : Unpacks 1 s (reached s.decodeOctet) := by
  have hnext := nextOctet_unpacks s
  rcases decodeOctet_cases s with e | e | ⟨v, e⟩ | ⟨ch, e⟩ <;> rw [e]
  · exact hnext
  · exact ⟨hnext.writes.trans (.ofEngine _ _ rfl), hnext.rd, hnext.nb, hnext.bits⟩
  · obtain ⟨hrd, hnb, hbits⟩ := unpack_counts s.nextOctet v
    have hwr' : s.nextOctet.eng.wr = s.eng.wr := rfl
    have hnb' : s.nextOctet.eng.nb = s.eng.nb := rfl
    exact ⟨hnext.writes.trans (unpack_writes _ v), hrd.le, hnb, by simp only [reached]; omega⟩
  · exact hnext

theorem decodeLoop_unpacks (fuel : Nat) (s : State) : Unpacks fuel s (reached (decodeLoop fuel s)) := by
  induction fuel generalizing s with
  | zero => exact ⟨.refl s, le_rfl, id, le_rfl⟩
  | succ k ih =>
    have hone := decodeOctet_unpacks s
    unfold decodeLoop
    cases hd : s.decodeOctet with
    | ok t =>
      rw [hd] at hone
      exact hone.trans (ih t)
    | error r =>
      rw [hd] at hone
      obtain ⟨hw, hrd, hnb, hbits⟩ := hone
      exact ⟨hw, hrd.trans (by omega), hnb, hbits.trans (by omega)⟩

theorem decodeStages_unpacks (s : State) :
    Unpacks (s.eng.n - s.eng.rd) s (reached s.decodeStages) := by
  have hloop := decodeLoop_unpacks (s.eng.n - s.eng.rd) s
  unfold State.decodeStages
  cases hd : decodeLoop (s.eng.n - s.eng.rd) s with
  | error r => rw [hd] at hloop; exact hloop
  | ok t =>
    rw [hd] at hloop
    simp only
    split <;> exact hloop

/-! ### The invariant, taken apart -/

/-- The part of the invariant that holds at every point of a command: a legal configuration, canonical
memory inside the buffers, engine elements within their bounds, and fresh draws. -/
structure Sound (s : State) : Prop where
  cfg : s.cfg.wf = true
  memWf : Memory.wf s.mem = true
  listed : ∀ c ∈ s.mem, holdsOctet s.cfg c.1 = true
  n : s.eng.n ≤ s.cfg.inBufSize
  rd : s.eng.rd ≤ s.eng.n
  wr : s.eng.wr ≤ s.cfg.outBufSize
  nb : s.eng.nb ≤ 12
  fresh : s.epoch < s.draws

/-- The invariant with named parts. -/
structure Sane (s : State) : Prop extends Sound s where
  started : s.busy = true → s.done = false ∧ s.err = .none ∧ s.errChar = 0 ∧ s.outLen = 0 ∧
    s.eng = Engine.started s.eng.op s.eng.h s.inLen.toNat
  outLen_le : s.outLen.toNat ≤ s.cfg.outBufSize
  outLen_zero : s.err ≠ .none → s.outLen = 0
  errChar_zero : s.err ≠ .invalidChar → s.errChar = 0
  resetIdle : s.resetAsserted = true → s.busy = false ∧ s.done = false ∧ s.ie = false

theorem inv_iff_sane (s : State) : Machine.Inv s ↔ Sane s := by
  simp only [Machine.Inv, State.memInBuffers, State.engineBounded, State.busyAsStarted,
    State.resultsCoherent, State.resetIdle, List.all_eq_true, Bool.and_eq_true, Bool.or_eq_true,
    Bool.not_eq_true', decide_eq_true_eq, or_iff_not_imp_left, Bool.not_eq_false, and_assoc]
  constructor
  · rintro ⟨h1, h2, h3, h4, h5, h6, h7, h8, h9, h10, h11, h12, h13⟩
    exact ⟨⟨h1, h2, h3, h4, h5, h6, h7, h13⟩, h8, h9, h10, h11, h12⟩
  · rintro ⟨⟨h1, h2, h3, h4, h5, h6, h7, h13⟩, h8, h9, h10, h11, h12⟩
    exact ⟨h1, h2, h3, h4, h5, h6, h7, h8, h9, h10, h11, h12, h13⟩

theorem outBufSize_ge {p : Config.Params} (h : p.wf = true) :
    8 * ceilDiv p.inBufSize 5 ≤ p.outBufSize := by
  simp only [Config.Params.wf, Bool.and_eq_true, decide_eq_true_eq] at h
  omega

theorem holdsOctet_inAddr {p : Config.Params} {a : Nat} (h1 : inAddr 0 ≤ a)
    (h2 : a < inAddr p.inBufSize) : holdsOctet p a = true := by
  simp only [inAddr] at h1 h2
  simp only [holdsOctet, Bool.or_eq_true, Bool.and_eq_true, decide_eq_true_eq]
  omega

theorem holdsOctet_outAddr {p : Config.Params} {a : Nat} (h1 : outAddr 0 ≤ a)
    (h2 : a < outAddr p.outBufSize) : holdsOctet p a = true := by
  simp only [outAddr] at h1 h2
  simp only [holdsOctet, Bool.or_eq_true, Bool.and_eq_true, decide_eq_true_eq]
  omega

/-! ### A running command -/

namespace Sound

variable {s t : State}

/-- A stage that stays within the bounds keeps `Sound`. -/
theorem stage (f : Sound s) (hf : StageFrame s t) (hw : StageWrites s t) (hrd : t.eng.rd ≤ t.eng.n)
    (hwr : t.eng.wr ≤ s.cfg.outBufSize) (hnb : t.eng.nb ≤ 12) : Sound t where
  cfg := by rw [hf.cfg]; exact f.cfg
  memWf := hf.wf f.memWf
  listed c hc := by
    rw [hf.cfg]
    rcases hw.listed c hc with hc | ⟨hlo, hhi⟩
    · exact f.listed c hc
    · exact holdsOctet_outAddr hlo (by simp only [outAddr] at *; omega)
  n := by rw [hf.n, hf.cfg]; exact f.n
  rd := hrd
  wr := by rw [hf.cfg]; exact hwr
  nb := hnb
  fresh := by rw [hf.epoch, hf.draws]; exact f.fresh

/-- The octets a failed DECODE leaves unspecified lie in OUT_BUF (60_exceptions.md R222). -/
theorem unspecifyOutput (f : Sound s) : Sound s.unspecifyOutput where
  cfg := f.cfg
  memWf := Memory.wf_writeRange _ _ _ _ f.memWf
  listed c hc := by
    rcases Memory.mem_writeRange hc with ⟨hlo, hhi⟩ | hc
    · have hcap := outBufSize_ge f.cfg
      have hn := f.n
      refine holdsOctet_outAddr hlo ?_
      simp only [outAddr, ceilDiv, State.unspecifyOutput_cfg] at *
      omega
    · exact f.listed c hc
  n := f.n
  rd := f.rd
  wr := f.wr
  nb := f.nb
  fresh := f.fresh.trans (Nat.lt_succ_self _)

/-- A completion ends in the invariant (43_control.md R206). -/
theorem complete (f : Sound s) (hr : s.resetAsserted = false) (e : ErrCode) (ch : Byte) (len : Nat)
    (hch : e ≠ .invalidChar → ch = 0) (hlen : len ≤ s.cfg.outBufSize) : Sane (s.complete e ch len) where
  toSound := { f with }
  started h := absurd h (by simp)
  outLen_le := by
    rw [State.complete_outLen]
    split
    · rw [BitVec.toNat_ofNat]; exact (Nat.mod_le _ _).trans hlen
    · exact Nat.zero_le _
  outLen_zero h := by simpa using fun he => absurd he h
  errChar_zero := hch
  resetIdle h := by simp [hr] at h

/-- A start within the input capacity begins in the invariant (43_control.md R202). -/
theorem start (f : Sound s) (hr : s.resetAsserted = false) (op : EngineOp) (h : Alphabet)
    (hl : s.inLen.toNat ≤ s.cfg.inBufSize) : Sane (s.start op h) where
  toSound := { f with n := hl, rd := Nat.zero_le _, wr := Nat.zero_le _, nb := Nat.zero_le _ }
  started _ := ⟨rfl, rfl, rfl, rfl, rfl⟩
  outLen_le := Nat.zero_le _
  outLen_zero _ := rfl
  errChar_zero _ := rfl
  resetIdle h := by simp [hr] at h

end Sound

namespace Sane

variable {s u : State}

theorem not_resetAsserted_of_busy (f : Sane s) (hb : s.busy = true) : s.resetAsserted = false := by
  by_contra hr
  simp [f.resetIdle (by simpa using hr)] at hb

theorem stage_resetAsserted (f : Sane s) (hb : s.busy = true) (hf : StageFrame s u) :
    u.resetAsserted = false :=
  hf.resetAsserted.trans (f.not_resetAsserted_of_busy hb)

theorem eng_of_busy (f : Sane s) (hb : s.busy = true) :
    s.eng = Engine.started s.eng.op s.eng.h s.inLen.toNat := (f.started hb).2.2.2.2

/-- The stages of a running ENCODE end within the bounds. -/
theorem encodeStages_sound (f : Sane s) (hb : s.busy = true) (ho : s.eng.op = .encode) :
    Sound s.encodeStages := by
  have he := f.eng_of_busy hb
  rw [ho] at he
  have hn : s.eng.n = s.inLen.toNat := by rw [he]; rfl
  obtain ⟨hrd, hnb, hwr⟩ := encodeStages_counts he
  have hcap := outBufSize_ge f.cfg
  have hin := f.n
  refine f.toSound.stage s.encodeStages_frame (encodeStages_writes s) ?_ ?_ (by omega)
  · rw [s.encodeStages_frame.n]; omega
  · simp only [ceilDiv] at *; omega

/-- The stages of a running DECODE end within the bounds, with or without a raise. -/
theorem decodeStages_sound (f : Sane s) (hb : s.busy = true)
    (hf : StageFrame s (reached s.decodeStages)) : Sound (reached s.decodeStages) := by
  have he := f.eng_of_busy hb
  have hrd0 : s.eng.rd = 0 := by rw [he]; rfl
  have hwr0 : s.eng.wr = 0 := by rw [he]; rfl
  have hnb0 : s.eng.nb = 0 := by rw [he]; rfl
  obtain ⟨hw, hrd, hnb, hbits⟩ := decodeStages_unpacks s
  have hnb7 := hnb (by omega)
  have hcap := outBufSize_ge f.cfg
  have hin := f.n
  refine f.toSound.stage hf hw ?_ ?_ (by omega)
  · rw [hf.n]; omega
  · simp only [ceilDiv] at hcap; omega

theorem engineTurn (f : Sane s) : Sane s.engineTurn := by
  rcases s.engineTurn_cases with
    ⟨-, e⟩ | ⟨hb, t, hf, e, ⟨ho, ht⟩ | ⟨-, ht⟩⟩ | ⟨hb, -, r, hd, hf, herr, e⟩ <;> rw [e]
  · exact f
  · have hs : Sound t := ht ▸ f.encodeStages_sound hb ho
    exact hs.complete (f.stage_resetAsserted hb hf) _ _ _ (fun _ => rfl) hs.wr
  · have hs : Sound t := by
      have hd := f.decodeStages_sound hb (by rw [ht]; exact hf)
      rwa [ht] at hd
    exact hs.complete (f.stage_resetAsserted hb hf) _ _ _ (fun _ => rfl) hs.wr
  · have hs : Sound r.at_ := by
      have hd' := f.decodeStages_sound hb (by rw [hd]; exact hf)
      rwa [hd] at hd'
    have hr := f.stage_resetAsserted hb hf
    refine hs.unspecifyOutput.complete hr _ _ _ (fun hne => ?_) (Nat.zero_le _)
    rcases herr with he | ⟨-, hch⟩
    · exact absurd he hne
    · exact hch

/-! ### The host's transactions -/

theorem withPort (f : Sane s) (rest : List Event) : Sane (s.withPort rest) := { f with }

theorem answer (f : Sane s) (r : Response) : Sane (s.answer r) := { f with }

theorem countDraw (f : Sane s) : Sane s.countDraw :=
  { f with fresh := f.fresh.trans (Nat.lt_succ_self _) }

theorem clearDone (f : Sane s) : Sane s.clearDone :=
  { f with
    started := fun hb => ⟨rfl, (f.started hb).2⟩
    resetIdle := fun hr => ⟨(f.resetIdle hr).1, rfl, (f.resetIdle hr).2.2⟩ }

theorem writeCtrl (f : Sane s) (hr : s.resetAsserted = false) (v : Word) : Sane (s.writeCtrl v) :=
  { f with resetIdle := fun h => absurd (hr.symm.trans h) (by decide) }

theorem writeStatus (f : Sane s) (v : Word) : Sane (s.writeStatus v) := by
  rcases s.writeStatus_cases v with e | ⟨-, e⟩ <;> rw [e]
  · exact f
  · exact f.clearDone

theorem writeInLen (f : Sane s) (v : Word) : Sane (s.writeInLen v) := by
  rcases s.writeInLen_cases v with ⟨-, e⟩ | ⟨hb, e⟩ <;> rw [e]
  · exact f
  · exact { f with started := fun h => absurd (hb.symm.trans h) (by decide) }

/-- A host write lands inside the capacity of IN_BUF (20_memory.md R66). -/
theorem writeInput (f : Sane s) {i n : Nat} (h : i + n ≤ s.cfg.inBufSize) (v : Word) :
    Sane (s.writeInput i n v) := by
  rcases s.writeInput_cases i n v with ⟨-, e⟩ | ⟨-, e⟩ <;> rw [e]
  · exact f
  · refine { f with memWf := Memory.wf_writeRange _ _ _ _ f.memWf, listed := fun c hc => ?_ }
    rcases Memory.mem_writeRange hc with ⟨hlo, hhi⟩ | hc
    · simp only [inAddr] at hlo hhi
      exact holdsOctet_inAddr (p := s.cfg) (by simp only [inAddr]; omega) (by simp only [inAddr]; omega)
    · exact f.listed c hc

theorem writeCmd (f : Sane s) (hr : s.resetAsserted = false) {w : Word} (h : s.writeCmd w = .next u) :
    Sane u := by
  rcases s.writeCmd_cases w with e | ⟨-, e⟩ | ⟨-, -, e⟩ | ⟨-, hl, i, op, a, -, -, e⟩ <;>
    rw [e] at h <;> injection h with h <;> subst h
  · exact f
  · exact f.toSound.complete hr _ _ _ (fun _ => rfl) (Nat.zero_le _)
  · exact f.toSound.complete hr _ _ _ (fun _ => rfl) (Nat.zero_le _)
  · exact f.toSound.start hr op a hl

theorem perform (f : Sane s) (hr : s.resetAsserted = false) {x : Txn} (h : s.perform x = .next u) :
    Sane u := by
  rcases s.perform_cases x with ⟨r, e⟩ | ⟨r, -, -, e⟩ | ⟨v, -, -, e⟩ | ⟨v, -, -, e⟩ | ⟨v, -, -, e⟩ |
    ⟨v, -, -, e⟩ | ⟨i, v, -, hp, e⟩ <;> rw [e] at h
  case inr.inr.inr.inl => exact (f.answer .ok).writeCmd hr h
  all_goals injection h with h; subst h
  · exact f.answer r
  · exact (f.answer r).countDraw
  · exact (f.answer .ok).writeCtrl hr v
  · exact (f.answer .ok).writeStatus v
  · exact (f.answer .ok).writeInLen v
  · exact (f.answer .ok).writeInput (place_inBuf hp).2.2 v

/-! ### Reset (70_reset_and_hazards.md R250) -/

theorem enterReset (f : Sane s) : Sane s.enterReset where
  cfg := f.cfg
  memWf := rfl
  listed _ hc := absurd hc (List.not_mem_nil)
  n := Nat.zero_le _
  rd := Nat.zero_le _
  wr := Nat.zero_le _
  nb := Nat.zero_le _
  fresh := Nat.lt_succ_self _
  started h := absurd h (by simp)
  outLen_le := Nat.zero_le _
  outLen_zero _ := rfl
  errChar_zero _ := rfl
  resetIdle _ := ⟨rfl, rfl, rfl⟩

theorem leaveReset (f : Sane s) : Sane s.leaveReset :=
  { f.enterReset with resetIdle := fun _ => ⟨rfl, rfl, rfl⟩ }

end Sane

end Sys2Proof.InvariantSteps

namespace Sys2Proof

open Machine InvariantSteps

/-- Settles O36: a case per event of the port; the engine's turn keeps the bounds by the counts of its
stages, every other event by the lemma about its operation. -/
theorem stepKeepsInvariant : Obligations.StepKeepsInvariant := by
  unfold Obligations.StepKeepsInvariant
  intro s t hs hstep
  rw [inv_iff_sane] at hs ⊢
  rcases step_cases hstep with ⟨-, rfl⟩ | ⟨x, rest, -, hr, hx⟩ | ⟨rest, -, rfl⟩ | ⟨rest, -, rfl⟩ |
    ⟨rest, -, rfl⟩
  · exact hs.engineTurn
  · exact (hs.withPort rest).perform hr hx
  · exact (hs.withPort rest).engineTurn
  · exact (hs.withPort rest).enterReset
  · exact (hs.withPort rest).leaveReset

end Sys2Proof
end

section
/-! The register file at the port (10_state.md R20 to R34): a 32-bit aligned access below 0x1000 is a
read or a write of the register at its offset, and the words the registers read as. -/

namespace Sys2Proof.RegisterAccess

open Sys2Proof.Machine Sys2Proof.Claims

/-! ### Access by offset -/

theorem place_eq_reg (p : Config.Params) {a : Nat} (h1 : a < 0x1000) (h2 : a % 4 = 0) :
    place p a 4 = .reg (regAt a) := by
  simp [place, h1, h2]

theorem perform_readTxn (s : State) {a : Offset} (h1 : a.toNat < 0x1000) (h2 : a.toNat % 4 = 0) :
    s.perform (readTxn a .four) = .next (s.answer (.data (s.readReg (regAt a.toNat)))) := by
  have hp : placeOf s.cfg (readTxn a .four) = .reg (regAt a.toNat) := place_eq_reg s.cfg h1 h2
  unfold State.perform
  rw [hp]
  rfl

theorem perform_writeTxn (s : State) {a : Offset} (h1 : a.toNat < 0x1000) (h2 : a.toNat % 4 = 0)
    (v : Word) :
    s.perform (writeTxn a .four v) = (s.answer .ok).writeReg (regAt a.toNat) v := by
  have hp : placeOf s.cfg (writeTxn a .four v) = .reg (regAt a.toNat) := place_eq_reg s.cfg h1 h2
  unfold State.perform
  rw [hp]
  rfl

theorem perform_cmdWrite (s : State) (w : Word) :
    s.perform (cmdWrite w) = (s.answer .ok).writeCmd w :=
  perform_writeTxn s (a := 0x008) (by decide) (by decide) w

theorem regAt_reserved {a : Nat} (h : 0x020 ≤ a) : regAt a = .reserved := by
  unfold regAt
  repeat rw [if_neg (by omega)]

/-! ### Register words -/

theorem ctrlWord_eq_ite (s : State) : s.ctrlWord = if s.ie then 1 else 0 := by
  cases h : s.ie <;> simp [State.ctrlWord, h]

theorem ctrlWord_writeCtrl (s : State) (v : Word) : (s.writeCtrl v).ctrlWord = v &&& 1 := by
  have hand : v &&& 1 = (BitVec.ofBool (v.getLsbD 0)).setWidth 32 :=
    BitVec.and_one_eq_setWidth_ofBool_getLsbD
  rw [hand, ctrlWord_eq_ite, State.writeCtrl_ie]
  cases v.getLsbD 0 <;> rfl

/-- A field above `m` bits of lower fields stands at the weight `2 ^ m`. -/
theorem toNat_append_eq_add {n m : Nat} (x : BitVec n) (y : BitVec m) :
    (x ++ y).toNat = 2 ^ m * x.toNat + y.toNat := by
  rw [BitVec.toNat_append, ← Nat.shiftLeft_add_eq_or_of_lt y.isLt, Nat.shiftLeft_eq, Nat.mul_comm]

theorem statusWord_toNat (s : State) :
    s.statusWord.toNat =
      s.busy.toNat + 2 * s.done.toNat + 16 * s.err.code.toNat + 256 * s.errChar.toNat := by
  simp only [State.statusWord, toNat_append_eq_add, BitVec.toNat_ofBool, BitVec.toNat_ofNat]
  omega

theorem code_le (e : ErrCode) : e.code.toNat ≤ 4 := by cases e <;> decide

theorem getLsbD_eq {w : Word} {i : Nat} {b : Bool} (h : w.toNat / 2 ^ i % 2 = b.toNat) :
    w.getLsbD i = b := by
  rw [← BitVec.testBit_toNat, Nat.testBit_eq_decide_div_mod_eq, h]
  cases b <;> rfl

theorem extractLsb'_eq {w : Word} {i n : Nat} {x : BitVec n} (h : w.toNat / 2 ^ i % 2 ^ n = x.toNat) :
    w.extractLsb' i n = x :=
  BitVec.eq_of_toNat_eq (by rw [BitVec.extractLsb'_toNat, Nat.shiftRight_eq_div_pow, h])

theorem extractLsb'_eq_zero {w : Word} {i n : Nat} (h : w.toNat / 2 ^ i % 2 ^ n = 0) :
    w.extractLsb' i n = 0 :=
  extractLsb'_eq (h.trans BitVec.toNat_zero.symm)

/-! ### Register writes -/

theorem writeStatus_eq (s : State) (v : Word) :
    s.writeStatus v = { s with done := s.done && !v.getLsbD 1 } := by
  unfold State.writeStatus State.clearDone
  cases v.getLsbD 1 <;> simp

theorem writeInLen_idle {s : State} (hb : s.busy = false) (v : Word) :
    s.writeInLen v = { s with inLen := v } := by
  simp [State.writeInLen, hb]

theorem writeInLen_busy {s : State} (hb : s.busy = true) (v : Word) : s.writeInLen v = s := by
  simp [State.writeInLen, hb]

end Sys2Proof.RegisterAccess

namespace Sys2Proof

open Machine Claims RegisterAccess

/-- Settles O42: from 0x020 on the register at an aligned offset is `reserved`. -/
theorem reservedOffsetsReadZero : Obligations.ReservedOffsetsReadZero := by
  unfold Obligations.ReservedOffsetsReadZero
  intro s a hlo hhi hal
  refine ⟨?_, fun v => ?_⟩
  · rw [perform_readTxn s (by omega) hal, regAt_reserved hlo]; rfl
  · rw [perform_writeTxn s (by omega) hal, regAt_reserved hlo]; rfl

/-- Settles O40: each offset is read as the register there; CTRL by its word. -/
theorem registerReads : Obligations.RegisterReads := by
  unfold Obligations.RegisterReads
  intro s
  have hread {a : Offset} (h1 : a.toNat < 0x1000) (h2 : a.toNat % 4 = 0) := perform_readTxn s h1 h2
  refine ⟨hread (by decide) (by decide), ?_, hread (by decide) (by decide),
    hread (by decide) (by decide), hread (by decide) (by decide), hread (by decide) (by decide),
    hread (by decide) (by decide), hread (by decide) (by decide)⟩
  rw [← ctrlWord_eq_ite]
  exact hread (by decide) (by decide)

/-- Settles O41: the word is the sum of its fields at their weights, and each field is a quotient and
remainder of that sum. -/
theorem statusWordLayout : Obligations.StatusWordLayout := by
  unfold Obligations.StatusWordLayout
  refine ⟨⟨rfl, rfl, rfl, rfl, rfl⟩, fun s => ?_⟩
  have hsum := statusWord_toNat s
  have hcode := code_le s.err
  have hchar := s.errChar.isLt
  have hbusy := s.busy.toNat_lt
  have hdone := s.done.toNat_lt
  have herr : s.statusWord.extractLsb' 4 3 = s.err.code := extractLsb'_eq (by omega)
  refine ⟨getLsbD_eq (by omega), getLsbD_eq (by omega), herr, extractLsb'_eq (by omega),
    extractLsb'_eq_zero (by omega), getLsbD_eq (by rw [Bool.toNat_false]; omega),
    extractLsb'_eq_zero (by omega), herr ▸ hcode, hsum⟩

/-- Settles O43: a write of a read-only register answers OK and leaves the register file. -/
theorem readOnlyRegistersIgnoreWrites : Obligations.ReadOnlyRegistersIgnoreWrites := by
  unfold Obligations.ReadOnlyRegistersIgnoreWrites
  intro s v
  have hwrite {a : Offset} (h1 : a.toNat < 0x1000) (h2 : a.toNat % 4 = 0) := perform_writeTxn s h1 h2 v
  exact ⟨hwrite (by decide) (by decide), hwrite (by decide) (by decide),
    hwrite (by decide) (by decide), hwrite (by decide) (by decide)⟩

/-- Settles O44: the write is `writeCtrl`, and the word it leaves is bit 0 of the data. -/
theorem ctrlWriteStoresIeOnly : Obligations.CtrlWriteStoresIeOnly := by
  unfold Obligations.CtrlWriteStoresIeOnly
  intro s v
  refine ⟨(s.answer .ok).writeCtrl v, perform_writeTxn s (by decide) (by decide) v, rfl, ?_⟩
  rw [← ctrlWord_writeCtrl (s.answer .ok) v]
  exact perform_readTxn _ (by decide) (by decide)

/-- Settles O45: the write is `writeStatus`, which keeps DONE unless bit 1 is set. -/
theorem statusWriteClearsDoneOnly : Obligations.StatusWriteClearsDoneOnly := by
  unfold Obligations.StatusWriteClearsDoneOnly
  intro s v
  rw [perform_writeTxn s (by decide) (by decide) v]
  exact congrArg _ (writeStatus_eq (s.answer .ok) v)

/-- Settles O46: the write is `writeInLen`, by its two branches. -/
theorem inLenWriteReadsBack : Obligations.InLenWriteReadsBack := by
  unfold Obligations.InLenWriteReadsBack
  have hwrite (s : State) (v : Word) :
      s.perform (writeTxn 0x010 .four v) = .next ((s.answer .ok).writeInLen v) :=
    perform_writeTxn s (by decide) (by decide) v
  refine ⟨fun s v hb => ?_, fun s v hb => ?_⟩
  · refine ⟨{ s.answer .ok with inLen := v }, ?_, rfl, perform_readTxn _ (by decide) (by decide)⟩
    rw [hwrite, writeInLen_idle (s := s.answer .ok) hb]
  · rw [hwrite, writeInLen_busy (s := s.answer .ok) hb]

end Sys2Proof
end

section
/-! Which event changes which register (10_state.md R23 to R35): one inversion of a step by its effect
on the registers, from which each "only by" statement is read off. -/

namespace Sys2Proof.StepEffects

open Sys2Proof.Machine Sys2Proof.Claims Sys2Proof.Dispatch Sys2Proof.RegisterAccess

/-! ### Transactions of the register file -/

/-- The offset of a register; of the reserved ones the first (10_state.md R20, R34). -/
def registerOffset : Reg → Offset
  | .id => 0x000
  | .ctrl => 0x004
  | .cmd => 0x008
  | .status => 0x00C
  | .inLen => 0x010
  | .outLen => 0x014
  | .inCap => 0x018
  | .outCap => 0x01C
  | .reserved => 0x020

theorem regAt_eq_imp {a : Nat} {r : Reg} (hr : r ≠ .reserved) (h : regAt a = r) :
    a = (registerOffset r).toNat := by
  subst h
  unfold regAt at *
  split_ifs at * with h0 h1 h2 h3 h4 h5 h6 h7
  case neg => exact absurd rfl hr
  all_goals assumption

/-- A write that lands on a register is the 32-bit write of its offset. -/
theorem eq_writeTxn_of_placeOf {p : Config.Params} {x : Txn} {r : Reg} {v : Word} (hr : r ≠ .reserved)
    (ha : x.access = .write v) (hp : placeOf p x = .reg r) : x = writeTxn (registerOffset r) .four v := by
  obtain ⟨a, z, d⟩ := x
  obtain ⟨-, hz, -, hreg⟩ := place_reg hp
  have haddr : a = registerOffset r := BitVec.eq_of_toNat_eq (regAt_eq_imp hr hreg.symm)
  have hsize : z = .four := by cases z <;> simp [Size.octets] at hz ⊢
  subst haddr hsize ha
  rfl

/-! ### The CMD write, the engine's turn -/

theorem writeCmd_command {w : Word} {i : Instr} (hd : decode w = .command i) (s : State) :
    s.writeCmd w = exec i s := by
  simp [State.writeCmd, hd]

theorem writeCmd_illegal {w : Word} {why : Illegal} (hd : decode w = .illegal why) (s : State) :
    s.writeCmd w = .next s.rejectCommand := by
  simp [State.writeCmd, hd]

theorem rejectCommand_idle {s : State} (hb : s.busy = false) :
    s.rejectCommand = s.complete .badCmd 0 0 := by
  simp [State.rejectCommand, hb]

/-- What the engine's turn leaves unchanged, BUSY or not. -/
theorem engineTurn_setting (s : State) :
    s.engineTurn.cfg = s.cfg ∧ s.engineTurn.ie = s.ie ∧ s.engineTurn.inLen = s.inLen := by
  rcases s.engineTurn_cases with ⟨-, e⟩ | ⟨-, t, f, e, -⟩ | ⟨-, -, r, -, f, -, e⟩ <;> rw [e]
  · exact ⟨rfl, rfl, rfl⟩
  · exact ⟨f.cfg, f.ie, f.inLen⟩
  · exact ⟨f.cfg, f.ie, f.inLen⟩

/-- The engine's turn of a running command completes it (43_control.md R205, R206). -/
theorem engineTurn_completes {s : State} (hb : s.busy = true) :
    s.engineTurn.busy = false ∧ s.engineTurn.done = true := by
  rcases s.engineTurn_cases with ⟨h, -⟩ | ⟨-, t, -, e, -⟩ | ⟨-, -, r, -, -, -, e⟩
  · exact absurd (hb.symm.trans h) (by decide)
  · rw [e]; exact ⟨rfl, rfl⟩
  · rw [e]; exact ⟨rfl, rfl⟩

/-! ### Steps forward -/

section
variable {s t : State} (h : step s = .next t)
include h

/-- A transaction that is next and is not refused is performed. -/
theorem perform_of_step {x : Txn} {rest : List Event} (hp : s.port = .txn x :: rest) :
    (s.withPort rest).perform x = .next t := by
  cases hr : s.resetAsserted with
  | false => rwa [step_txn hp hr] at h
  | true => rw [step_txn_duringReset hp hr] at h; cases h

theorem writeCmd_of_step {w : Word} {rest : List Event} (hp : s.port = .txn (cmdWrite w) :: rest) :
    ((s.withPort rest).answer .ok).writeCmd w = .next t := by
  rw [← perform_cmdWrite]
  exact perform_of_step h hp

theorem engineTurn_of_step (hn : EngineIsNext s) : ∃ rest, t = (s.withPort rest).engineTurn := by
  rcases hn with hp | ⟨rest, hp⟩
  · rw [step_idlePort hp] at h
    injection h with h
    exact ⟨s.port, h.symm⟩
  · rw [step_engineSlot hp] at h
    injection h with h
    exact ⟨rest, h.symm⟩

theorem done_of_step_engine (hb : s.busy = true) (hn : EngineIsNext s) : t.done = true := by
  obtain ⟨rest, rfl⟩ := engineTurn_of_step h hn
  exact (engineTurn_completes (s := s.withPort rest) hb).2

theorem done_of_step_illegal {w : Word} {why : Illegal} (hb : s.busy = false) (hn : CmdWriteIsNext s w)
    (hd : decode w = .illegal why) : t.done = true := by
  obtain ⟨rest, hp⟩ := hn
  have hcmd := writeCmd_of_step h hp
  rw [writeCmd_illegal hd, rejectCommand_idle (s := (s.withPort rest).answer .ok) hb] at hcmd
  injection hcmd with ht
  rw [← ht]
  rfl

theorem done_of_step_command {w : Word} {i : Instr} (hb : s.busy = false) (hn : CmdWriteIsNext s w)
    (hd : decode w = .command i) (hi : i ≠ .nop) :
    t.done = decide (s.cfg.inBufSize < s.inLen.toNat) := by
  obtain ⟨rest, hp⟩ := hn
  obtain ⟨op, a, hexec⟩ := exec_eq_dispatchCommand hi
  have hcmd := writeCmd_of_step h hp
  rw [writeCmd_command hd, hexec] at hcmd
  injection hcmd with ht
  by_cases hl : s.cfg.inBufSize < s.inLen.toNat
  · rw [← ht, dispatchCommand_overlong (s := (s.withPort rest).answer .ok) hb op a hl, decide_eq_true hl]
    rfl
  · rw [← ht, dispatchCommand_legal (s := (s.withPort rest).answer .ok) hb op a (not_lt.mp hl),
      decide_eq_false hl]
    rfl

theorem done_of_step_status {v : Word} {rest : List Event}
    (hp : s.port = .txn (writeTxn 0x00C .four v) :: rest) : t.done = (s.done && !v.getLsbD 1) := by
  have hw : ((s.withPort rest).answer .ok).writeReg .status v = .next t := by
    rw [← perform_of_step h hp]
    exact (perform_writeTxn _ (a := 0x00C) (by decide) (by decide) v).symm
  injection hw with ht
  rw [← ht, writeStatus_eq]
  rfl

theorem done_of_step_reset (hn : ResetIsNext s) : t.done = false := by
  obtain ⟨rest, hp | hp⟩ := hn
  · rw [step_resetAssert hp] at h
    injection h with ht
    rw [← ht]; rfl
  · rw [step_resetRelease hp] at h
    injection h with ht
    rw [← ht]; rfl

end

/-! ### The inversion of a step -/

/-- The registers and the configuration of `t` are those of `s`. -/
structure SameRegisters (s t : State) : Prop where
  cfg : t.cfg = s.cfg
  ie : t.ie = s.ie
  busy : t.busy = s.busy
  done : t.done = s.done
  err : t.err = s.err
  errChar : t.errChar = s.errChar
  inLen : t.inLen = s.inLen
  outLen : t.outLen = s.outLen

theorem SameRegisters.answer (s : State) (rest : List Event) (r : Response) :
    SameRegisters s ((s.withPort rest).answer r) := ⟨rfl, rfl, rfl, rfl, rfl, rfl, rfl, rfl⟩

/-- The effect of a step on the registers, with the event that has it. -/
inductive StepEffect (s : State) : State → Prop
  /-- A read, an ignored or dropped write, a buffer write, BUSERR, an engine slot while idle. -/
  | quiet {t : State} (same : SameRegisters s t) : StepEffect s t
  | completion {t : State} (running : s.busy = true) (next : EngineIsNext s) (cfg : t.cfg = s.cfg)
      (ie : t.ie = s.ie) (inLen : t.inLen = s.inLen) (busy : t.busy = false) (done : t.done = true) :
      StepEffect s t
  | ctrl (v : Word) (rest : List Event) (port : s.port = .txn (writeTxn 0x004 .four v) :: rest) :
      StepEffect s (((s.withPort rest).answer .ok).writeCtrl v)
  | ack (v : Word) (rest : List Event) (port : s.port = .txn (writeTxn 0x00C .four v) :: rest)
      (bit : v.getLsbD 1 = true) : StepEffect s ((s.withPort rest).answer .ok).clearDone
  | length (v : Word) (rest : List Event) (port : s.port = .txn (writeTxn 0x010 .four v) :: rest)
      (idle : s.busy = false) : StepEffect s { (s.withPort rest).answer .ok with inLen := v }
  | rejected (w : Word) (rest : List Event) (port : s.port = .txn (cmdWrite w) :: rest)
      (idle : s.busy = false) (why : Illegal) (word : decode w = .illegal why) :
      StepEffect s (((s.withPort rest).answer .ok).complete .badCmd 0 0)
  | overlong (w : Word) (rest : List Event) (port : s.port = .txn (cmdWrite w) :: rest)
      (idle : s.busy = false) (i : Instr) (word : decode w = .command i) (command : i ≠ .nop)
      (long : s.cfg.inBufSize < s.inLen.toNat) :
      StepEffect s (((s.withPort rest).answer .ok).complete .badLen 0 0)
  | started (w : Word) (rest : List Event) (port : s.port = .txn (cmdWrite w) :: rest)
      (idle : s.busy = false) (i : Instr) (word : decode w = .command i) (command : i ≠ .nop)
      (legal : s.inLen.toNat ≤ s.cfg.inBufSize) (op : EngineOp) (a : Alphabet) :
      StepEffect s (((s.withPort rest).answer .ok).start op a)
  | reset {t : State} (next : ResetIsNext s) (cfg : t.cfg = s.cfg) (busy : t.busy = false)
      (done : t.done = false) : StepEffect s t

theorem engineTurn_effect {s : State} (rest : List Event) (hn : EngineIsNext s) :
    StepEffect s (s.withPort rest).engineTurn := by
  cases hb : s.busy with
  | false =>
    have he : (s.withPort rest).engineTurn = s.withPort rest := by simp [State.engineTurn, hb]
    rw [he]
    exact .quiet ⟨rfl, rfl, rfl, rfl, rfl, rfl, rfl, rfl⟩
  | true =>
    obtain ⟨hcfg, hie, hlen⟩ := engineTurn_setting (s.withPort rest)
    obtain ⟨hbusy, hdone⟩ := engineTurn_completes (s := s.withPort rest) hb
    exact .completion hb hn hcfg hie hlen hbusy hdone

theorem writeCmd_effect {s t : State} {w : Word} {rest : List Event}
    (hp : s.port = .txn (cmdWrite w) :: rest)
    (h : ((s.withPort rest).answer .ok).writeCmd w = .next t) : StepEffect s t := by
  cases hd : decode w with
  | illegal why =>
    rw [writeCmd_illegal hd] at h
    injection h with h
    subst h
    rcases ((s.withPort rest).answer .ok).rejectCommand_cases with ⟨-, e⟩ | ⟨hb, e⟩ <;> rw [e]
    · exact .quiet (.answer ..)
    · exact .rejected w rest hp hb why hd
  | command i =>
    rw [writeCmd_command hd] at h
    rcases exec_cases i ((s.withPort rest).answer .ok) with
      e | ⟨hb, hi, hl, e⟩ | ⟨hb, hi, hl, op, a, e⟩ <;> rw [e] at h <;> injection h with h <;> subst h
    · exact .quiet (.answer ..)
    · exact .overlong w rest hp hb i hd hi hl
    · exact .started w rest hp hb i hd hi hl op a

theorem perform_effect {s t : State} {x : Txn} {rest : List Event} (hp : s.port = .txn x :: rest)
    (h : (s.withPort rest).perform x = .next t) : StepEffect s t := by
  rcases (s.withPort rest).perform_cases x with ⟨r, e⟩ | ⟨r, -, -, e⟩ | ⟨v, ha, hr, e⟩ |
    ⟨v, ha, hr, e⟩ | ⟨v, ha, hr, e⟩ | ⟨v, ha, hr, e⟩ | ⟨i, v, -, -, e⟩ <;> rw [e] at h
  case inr.inr.inr.inl =>
    rw [eq_writeTxn_of_placeOf (by decide) ha hr] at hp
    exact writeCmd_effect hp h
  all_goals injection h with h; subst h
  · exact .quiet (.answer ..)
  · exact .quiet ⟨rfl, rfl, rfl, rfl, rfl, rfl, rfl, rfl⟩
  · rw [eq_writeTxn_of_placeOf (by decide) ha hr] at hp
    exact .ctrl v rest hp
  · rw [eq_writeTxn_of_placeOf (by decide) ha hr] at hp
    rcases ((s.withPort rest).answer .ok).writeStatus_cases v with e | ⟨hv, e⟩ <;> rw [e]
    · exact .quiet (.answer ..)
    · exact .ack v rest hp hv
  · rw [eq_writeTxn_of_placeOf (by decide) ha hr] at hp
    rcases ((s.withPort rest).answer .ok).writeInLen_cases v with ⟨-, e⟩ | ⟨hb, e⟩ <;> rw [e]
    · exact .quiet (.answer ..)
    · exact .length v rest hp hb
  · rcases ((s.withPort rest).answer .ok).writeInput_cases i x.size.octets v with ⟨-, e⟩ | ⟨-, e⟩ <;>
      rw [e] <;> exact .quiet ⟨rfl, rfl, rfl, rfl, rfl, rfl, rfl, rfl⟩

/-- Every step has one of these effects. -/
theorem step_effect {s t : State} (h : step s = .next t) : StepEffect s t := by
  rcases step_cases h with ⟨hp, rfl⟩ | ⟨x, rest, hp, -, hx⟩ | ⟨rest, hp, rfl⟩ | ⟨rest, hp, rfl⟩ |
    ⟨rest, hp, rfl⟩
  · exact engineTurn_effect s.port (.inl hp)
  · exact perform_effect hp hx
  · exact engineTurn_effect rest (.inr ⟨rest, hp⟩)
  · exact .reset ⟨rest, .inl hp⟩ rfl rfl rfl
  · exact .reset ⟨rest, .inr hp⟩ rfl rfl rfl

end Sys2Proof.StepEffects

namespace Sys2Proof

open Machine Claims Dispatch RegisterAccess StepEffects

/-- Settles O53: of the effects of a step only `started` sets BUSY, only `completion` and `reset`
clear it. -/
theorem whatChangesBusy : Obligations.WhatChangesBusy := by
  unfold Obligations.WhatChangesBusy
  refine ⟨rfl, fun s t h => ⟨fun hs ht => ?_, fun hs ht => ?_⟩⟩
  · cases step_effect h with
    | started w rest port idle i word command legal =>
      exact ⟨w, i, ⟨rest, port⟩, word, command, legal⟩
    | quiet same => simp [same.busy, hs] at ht
    | completion _ _ _ _ _ busy => simp [busy] at ht
    | reset _ _ busy => simp [busy] at ht
    | ctrl | ack | length | rejected | overlong => simp [hs] at ht
  · cases step_effect h with
    | completion _ next _ _ _ _ done => exact .inl ⟨next, done⟩
    | reset next => exact .inr next
    | quiet same => simp [same.busy, hs] at ht
    | rejected _ _ _ idle | overlong _ _ _ idle | started _ _ _ idle => simp [hs] at idle
    | ctrl | ack | length => simp [hs] at ht

/-- Settles O54: DONE is set by `completion`, `rejected` and `overlong` and cleared by `started`, `ack`
and `reset`; what each of the events leaves is the step computed forward. -/
theorem whatChangesDone : Obligations.WhatChangesDone := by
  unfold Obligations.WhatChangesDone
  refine ⟨rfl, fun s t h => ⟨fun hs ht => ?_, fun hs ht => ?_, done_of_step_engine h,
    fun _ _ hb hn => done_of_step_illegal h hb hn, fun _ _ hb hn => done_of_step_command h hb hn,
    fun _ _ => done_of_step_status h, done_of_step_reset h⟩⟩
  · cases step_effect h with
    | completion running next => exact .inl ⟨running, next⟩
    | rejected w rest port idle why word => exact .inr ⟨idle, w, ⟨rest, port⟩, .inl ⟨why, word⟩⟩
    | overlong w rest port idle _ _ _ long => exact .inr ⟨idle, w, ⟨rest, port⟩, .inr long⟩
    | quiet same => simp [same.done, hs] at ht
    | reset _ _ _ done => simp [done] at ht
    | ctrl | ack | length | started => simp [hs] at ht
  · cases step_effect h with
    | started w rest port idle => exact .inl ⟨idle, rfl, w, rest, port⟩
    | ack v rest port bit => exact .inr (.inl ⟨v, rest, port, bit⟩)
    | reset next => exact .inr (.inr next)
    | quiet same => simp [same.done, hs] at ht
    | completion _ _ _ _ _ _ done => simp [done] at ht
    | ctrl | length | rejected | overlong => simp [hs] at ht

/-- Settles O55: the results change in `completion`, `rejected`, `overlong`, `started` and `reset`
only; every other effect keeps all three. -/
theorem whatChangesErr : Obligations.WhatChangesErr := by
  unfold Obligations.WhatChangesErr
  intro s t h hne
  cases step_effect h with
  | completion running next => exact .inl ⟨running, next⟩
  | rejected w rest port idle why word => exact .inr (.inl ⟨idle, w, ⟨rest, port⟩, by simp [word]⟩)
  | overlong w rest port idle i word command | started w rest port idle i word command =>
    exact .inr (.inl ⟨idle, w, ⟨rest, port⟩, by simp [word, command]⟩)
  | reset next => exact .inr (.inr next)
  | quiet same => simp [same.err, same.errChar, same.outLen] at hne
  | ctrl | ack | length => simp at hne

/-- Settles O57: IE changes in `ctrl` and `reset` only, IN_LEN in `length` and `reset` only, and no
effect changes the configuration. -/
theorem whatChangesIeAndInLen : Obligations.WhatChangesIeAndInLen := by
  unfold Obligations.WhatChangesIeAndInLen
  intro s t h
  cases step_effect h with
  | quiet same => exact ⟨same.cfg, fun hne => absurd same.ie hne, fun hne => absurd same.inLen hne⟩
  | completion _ _ cfg ie inLen => exact ⟨cfg, fun hne => absurd ie hne, fun hne => absurd inLen hne⟩
  | ctrl v rest port => exact ⟨rfl, fun _ => .inl ⟨v, rest, port⟩, fun hne => absurd rfl hne⟩
  | length v rest port idle =>
    exact ⟨rfl, fun hne => absurd rfl hne, fun _ => .inl ⟨idle, v, rest, port⟩⟩
  | reset next cfg => exact ⟨cfg, fun _ => .inr next, fun _ => .inr next⟩
  | ack | rejected | overlong | started =>
    exact ⟨rfl, fun hne => absurd rfl hne, fun hne => absurd rfl hne⟩

end Sys2Proof
end

section
/-! The buffers at the port (20_memory.md R60 to R69): where a buffer access lands, what it does there,
and the little-endian word of its octets as the sum of the octets at their weights. -/

namespace Sys2Proof.BufferAccess

open Sys2Proof.Machine Sys2Proof.Claims

/-! ### Where an access lands (20_memory.md R61, R66) -/

theorem octets_le_four (z : Size) : z.octets ≤ 4 := by cases z <;> decide

/-- An aligned access does not cross the end of the IN window. -/
theorem end_le_of_aligned {z : Size} {a : Nat} (hal : a % z.octets = 0) (ha : a < outAddr 0) :
    a + z.octets ≤ outAddr 0 := by
  cases z <;> simp only [Size.octets, outAddr] at * <;> omega

theorem place_inBuf_lt {p : Config.Params} {a n i : Nat} (h : place p a n = .inBuf i) :
    a < outAddr 0 := by
  by_contra hout
  simp only [outAddr, not_lt] at hout
  have h1 : ¬a < 0x1000 := by omega
  have h2 : ¬(0x10000 ≤ a ∧ a < 0x20000) := by omega
  simp only [place, h1, h2, if_false] at h
  split_ifs at h

theorem place_eq_inBuf {p : Config.Params} {i n : Nat} (hw : p.wf = true) (hn : 0 < n)
    (hal : inAddr i % n = 0) (hcap : i + n ≤ p.inBufSize) : place p (inAddr i) n = .inBuf i := by
  simp only [Config.Params.wf, Bool.and_eq_true, decide_eq_true_eq] at hw
  have h1 : ¬inAddr i < 0x1000 := by simp only [inAddr]; omega
  have h2 : 0x10000 ≤ inAddr i ∧ inAddr i < 0x20000 := by simp only [inAddr]; omega
  have h3 : inAddr i - 0x10000 = i := by simp only [inAddr]; omega
  simp only [place, h1, h2, h3, hal, hcap, if_false, if_true, and_self]

/-! ### What a buffer access does (20_memory.md R62, R63, R68) -/

section
variable {s : State} {x : Txn} {i : Nat}

theorem perform_inBuf_read (hp : placeOf s.cfg x = .inBuf i) (ha : x.access = .read) :
    s.perform x = .next (s.answer (.data (s.readOctets (inAddr i) x.size.octets))) := by
  simp only [State.perform, hp, ha]

theorem perform_inBuf_write (hp : placeOf s.cfg x = .inBuf i) {v : Word} (ha : x.access = .write v) :
    s.perform x = .next ((s.answer .ok).writeInput i x.size.octets v) := by
  simp only [State.perform, hp, ha]

theorem perform_outBuf_read (hp : placeOf s.cfg x = .outBuf i) (ha : x.access = .read) :
    s.perform x = .next (s.readOutput i x.size.octets) := by
  simp only [State.perform, hp, ha]

theorem perform_outBuf_write (hp : placeOf s.cfg x = .outBuf i) {v : Word} (ha : x.access = .write v) :
    s.perform x = .next (s.answer .ok) := by
  simp only [State.perform, hp, ha]

end

theorem readOutput_idle {s : State} (hb : s.busy = false) (i n : Nat) :
    s.readOutput i n = s.answer (.data (s.readOctets (outAddr i) n)) := by
  simp [State.readOutput, hb]

theorem readOutput_busy {s : State} (hb : s.busy = true) (i n : Nat) :
    s.readOutput i n = (s.answer (.data (s.drawnOctets (outAddr i) n))).countDraw := by
  simp [State.readOutput, hb]

theorem writeInput_idle {s : State} (hb : s.busy = false) (i n : Nat) (v : Word) :
    s.writeInput i n v = s.writeOctets (inAddr i) n v := by
  simp [State.writeInput, hb]

theorem writeInput_busy {s : State} (hb : s.busy = true) (i n : Nat) (v : Word) :
    s.writeInput i n v = s := by
  simp [State.writeInput, hb]

/-! ### The word of a list of octets (20_memory.md R67) -/

/-- The word of at most four octets has them as its digits in base 256, the lowest first. -/
theorem toNat_wordOfOctets {l : List Byte} (hl : l.length ≤ 4) :
    (wordOfOctets l).toNat = Nat.ofDigits 256 (l.map BitVec.toNat) := by
  induction l with
  | nil => rfl
  | cons x rest ih =>
    have hrest : rest.length ≤ 3 := Nat.le_of_succ_le_succ hl
    have hlt : Nat.ofDigits 256 (rest.map BitVec.toNat) < 256 ^ rest.length := by
      simpa using Nat.ofDigits_lt_base_pow_length (b := 256) (l := rest.map BitVec.toNat) (by decide)
        (by simpa using fun y _ => y.isLt)
    have hpow : 256 ^ rest.length ≤ 256 ^ 3 := Nat.pow_le_pow_right (by decide) hrest
    have hdigit : (x.setWidth 32).toNat = x.toNat := BitVec.toNat_setWidth_of_le (by decide)
    have hshift : (wordOfOctets rest <<< 8).toNat = Nat.ofDigits 256 (rest.map BitVec.toNat) <<< 8 := by
      rw [BitVec.toNat_shiftLeft, ih (by omega), Nat.shiftLeft_eq, Nat.mod_eq_of_lt (by omega)]
    rw [wordOfOctets, BitVec.toNat_or, hdigit, hshift, Nat.or_comm,
      ← Nat.shiftLeft_add_eq_or_of_lt x.isLt, Nat.shiftLeft_eq, List.map_cons, Nat.ofDigits_cons]
    omega

theorem ofDigits_map_range (f : Nat → Nat) (n : Nat) :
    Nat.ofDigits 256 ((List.range n).map f) = ((List.range n).map fun k => f k * 2 ^ (8 * k)).sum := by
  induction n with
  | zero => rfl
  | succ n ih =>
    have hpow : 256 ^ n = 2 ^ (8 * n) := by rw [Nat.pow_mul]
    simp [List.range_succ, Nat.ofDigits_append, ih, hpow, Nat.mul_comm]

theorem readOctets_toNat (s : State) (a : Nat) {n : Nat} (hn : n ≤ 4) :
    (s.readOctets a n).toNat =
      ((List.range n).map fun k => (s.octetAt (a + k)).toNat * 2 ^ (8 * k)).sum := by
  rw [State.readOctets, toNat_wordOfOctets (by simpa using hn), List.map_map]
  exact ofDigits_map_range (fun k => (s.octetAt (a + k)).toNat) n

/-! ### Reading back a write -/

/-- The low `n` octets of a number at their weights add up to the number modulo `2 ^ (8 * n)`. -/
theorem sum_octets_eq_mod (v n : Nat) :
    ((List.range n).map fun k => v / 2 ^ (8 * k) % 256 * 2 ^ (8 * k)).sum = v % 2 ^ (8 * n) := by
  induction n with
  | zero => simp [Nat.mod_one]
  | succ n ih =>
    have hpow : 2 ^ (8 * (n + 1)) = 2 ^ (8 * n) * 256 := by rw [Nat.mul_succ, Nat.pow_add]
    rw [List.range_succ, List.map_append, List.sum_append, ih, hpow, Nat.mod_mul]
    simp [Nat.mul_comm]

theorem octetOfWord_toNat (v : Word) (k : Nat) :
    (octetOfWord v k).toNat = v.toNat / 2 ^ (8 * k) % 256 := by
  simp [octetOfWord, BitVec.extractLsb'_toNat, Nat.shiftRight_eq_div_pow]

theorem octetAt_writeOctets_covered (s : State) (a : Nat) (v : Word) {n k : Nat} (hk : k < n) :
    (s.writeOctets a n v).octetAt (a + k) = octetOfWord v k := by
  rw [State.octetAt_writeOctets, if_pos (by omega), Nat.add_sub_cancel_left]

theorem readOctets_writeOctets_toNat (s : State) (a : Nat) (v : Word) {n : Nat} (hn : n ≤ 4) :
    ((s.writeOctets a n v).readOctets a n).toNat = v.toNat % 2 ^ (8 * n) := by
  rw [readOctets_toNat _ _ hn, ← sum_octets_eq_mod]
  refine congrArg List.sum (List.map_congr_left fun k hk => ?_)
  rw [octetAt_writeOctets_covered s a v (List.mem_range.mp hk), octetOfWord_toNat]

/-! ### Little-endian reads and writes (20_memory.md R67) -/

/-- A read of either buffer answers the octets at its block offset; of OUT_BUF while BUSY = 0 only. -/
theorem perform_buffer_read {s : State} {x : Txn} {a : Nat} (ha : x.access = .read)
    (hp : (∃ i, placeOf s.cfg x = .inBuf i ∧ a = inAddr i) ∨
      (s.busy = false ∧ ∃ i, placeOf s.cfg x = .outBuf i ∧ a = outAddr i)) :
    s.perform x = .next (s.answer (.data (s.readOctets a x.size.octets))) := by
  rcases hp with ⟨i, hp, rfl⟩ | ⟨hb, i, hp, rfl⟩
  · exact perform_inBuf_read hp ha
  · rw [perform_outBuf_read hp ha, readOutput_idle hb]

theorem sameOctetsOutside_writeOctets (s : State) (a n : Nat) (v : Word) :
    SameOctetsOutside s (s.writeOctets a n v) a (a + n) := fun b hb => by
  rw [State.octetAt_writeOctets, if_neg (by omega)]

end Sys2Proof.BufferAccess

namespace Sys2Proof

open Machine Claims BufferAccess

/-- Settles O48: of what a transaction can do, a read has the two cases that record a response; the one
that counts a draw needs BUSY = 1. -/
theorem readsHaveNoSideEffect : Obligations.ReadsHaveNoSideEffect := by
  unfold Obligations.ReadsHaveNoSideEffect
  intro s x ha
  rcases s.perform_cases x with ⟨r, e⟩ | ⟨r, hb, -, e⟩ | ⟨v, hw, -⟩ | ⟨v, hw, -⟩ | ⟨v, hw, -⟩ |
    ⟨v, hw, -⟩ | ⟨i, v, hw, -⟩
  · exact ⟨_, e, rfl, fun _ => rfl⟩
  · exact ⟨_, e, rfl, fun h => absurd (hb.symm.trans h) (by decide)⟩
  all_goals exact absurd (ha.symm.trans hw) (by simp)

/-- Settles O49: a read is the base 256 number of its octets; a legal IN_BUF write while idle is
`writeOctets`, whose octets read back as the digits of the data. -/
theorem bufferAccessesAreLittleEndian : Obligations.BufferAccessesAreLittleEndian := by
  unfold Obligations.BufferAccessesAreLittleEndian
  refine ⟨fun s x a ha hp => ?_, fun s a i z v hwf hb haddr hal hcap => ?_⟩
  · exact ⟨_, perform_buffer_read ha hp, readOctets_toNat s a (octets_le_four _)⟩
  · have hz : 0 < z.octets := by cases z <;> decide
    have hplace : place s.cfg a.toNat z.octets = .inBuf i := by
      rw [haddr] at hal ⊢
      exact place_eq_inBuf hwf hz hal hcap
    have hwrite : s.perform (writeTxn a z v) =
        .next ((s.answer .ok).writeOctets (inAddr i) z.octets v) := by
      rw [perform_inBuf_write (x := writeTxn a z v) hplace rfl, writeInput_idle (s := s.answer .ok) hb]
      rfl
    refine ⟨_, hwrite, fun k hk => ?_, sameOctetsOutside_writeOctets _ _ _ _, rfl, _,
      perform_inBuf_read (x := readTxn a z) hplace rfl,
      readOctets_writeOctets_toNat _ _ v (octets_le_four z)⟩
    rw [State.inOctet, show inAddr (i + k) = inAddr i + k from (Nat.add_assoc ..).symm]
    exact octetAt_writeOctets_covered _ _ v hk

/-- Settles O50: each access by its place and direction, then by BUSY. -/
theorem ignoredBufferAccesses : Obligations.IgnoredBufferAccesses := by
  unfold Obligations.IgnoredBufferAccesses
  intro s x i
  refine ⟨fun hp hb v ha => ?_, fun hp v ha => perform_outBuf_write hp ha, fun hp ha hb => ?_,
    fun hp ha hb => ⟨s.drawnOctets (outAddr i) x.size.octets, ?_⟩⟩
  · rw [perform_inBuf_write hp ha, writeInput_busy (s := s.answer .ok) hb]
  · rw [perform_outBuf_read hp ha, readOutput_idle hb]
  · rw [perform_outBuf_read hp ha, readOutput_busy hb]

end Sys2Proof
end

section
/-! Which step changes which octet (20_memory.md R62, R63, R68): the engine's turn keeps every octet
below the OUT window, and of the host's transactions only an IN_BUF write while idle changes octets. -/

namespace Sys2Proof.OctetChanges

open Sys2Proof.Machine Sys2Proof.Claims Sys2Proof.BufferAccess

/-- The engine writes the OUT window only, and only while BUSY = 1 (20_memory.md R62, R63). -/
theorem engineTurn_octetAt (s : State) (a : Nat) (h : s.engineTurn.octetAt a ≠ s.octetAt a) :
    outAddr 0 ≤ a ∧ s.busy = true := by
  rcases s.engineTurn_cases with ⟨-, e⟩ | ⟨hb, t, f, e, -⟩ | ⟨hb, -, r, -, f, -, e⟩
  · exact absurd (by rw [e]) h
  · refine ⟨?_, hb⟩
    by_contra hlow
    exact h (by rw [e, State.octetAt_complete, f.low a (not_le.mp hlow)])
  · refine ⟨?_, hb⟩
    by_contra hlow
    refine h ?_
    rw [e, State.octetAt_complete, State.octetAt_unspecifyOutput, if_neg (fun hin => hlow hin.1),
      f.low a (not_le.mp hlow)]

/-- A CMD write changes the registers and the engine elements only (43_control.md R200). -/
theorem writeCmd_octetAt {s t : State} {w : Word} (h : s.writeCmd w = .next t) (a : Nat) :
    t.octetAt a = s.octetAt a := by
  rcases s.writeCmd_cases w with e | ⟨-, e⟩ | ⟨-, -, e⟩ | ⟨-, -, i, op, al, -, -, e⟩ <;>
    rw [e] at h <;> injection h with h <;> subst h <;> rfl

theorem writeStatus_octetAt (s : State) (v : Word) (a : Nat) :
    (s.writeStatus v).octetAt a = s.octetAt a := by
  rcases s.writeStatus_cases v with e | ⟨-, e⟩
  · rw [e]
  · rw [e]; rfl

theorem writeInLen_octetAt (s : State) (v : Word) (a : Nat) :
    (s.writeInLen v).octetAt a = s.octetAt a := by
  rcases s.writeInLen_cases v with ⟨-, e⟩ | ⟨-, e⟩
  · rw [e]
  · rw [e]; rfl

theorem writeInput_octetAt (s : State) (i n : Nat) (v : Word) (a : Nat)
    (h : (s.writeInput i n v).octetAt a ≠ s.octetAt a) :
    s.busy = false ∧ inAddr i ≤ a ∧ a < inAddr i + n := by
  rcases s.writeInput_cases i n v with ⟨-, e⟩ | ⟨hb, e⟩
  · exact absurd (by rw [e]) h
  · refine ⟨hb, ?_⟩
    by_contra hout
    exact h (by rw [e, State.octetAt_writeOctets, if_neg hout])

/-- A transaction that changes an octet is a write in the IN window that covers it while BUSY = 0
(20_memory.md R62, R68). -/
theorem perform_octetAt {s t : State} {x : Txn} (h : s.perform x = .next t) (a : Nat)
    (hne : t.octetAt a ≠ s.octetAt a) :
    a < outAddr 0 ∧ s.busy = false ∧ ∃ v, x.access = .write v ∧
      inAddr 0 ≤ x.addr.toNat ∧ x.addr.toNat ≤ a ∧ a < x.addr.toNat + x.size.octets := by
  rcases s.perform_cases x with ⟨r, e⟩ | ⟨r, -, -, e⟩ | ⟨v, -, -, e⟩ | ⟨v, -, -, e⟩ | ⟨v, -, -, e⟩ |
    ⟨v, -, -, e⟩ | ⟨i, v, ha, hp, e⟩ <;> rw [e] at h
  case inr.inr.inr.inl => exact absurd (writeCmd_octetAt h a) hne
  all_goals injection h with h; subst h
  case inr.inr.inr.inr.inr.inr =>
    obtain ⟨hb, hlo, hhi⟩ := writeInput_octetAt _ i _ v a hne
    obtain ⟨haddr, hal, -⟩ := place_inBuf hp
    have hend := end_le_of_aligned hal (place_inBuf_lt hp)
    rw [← haddr] at hlo hhi
    exact ⟨by omega, hb, v, ha, by simp only [haddr, inAddr]; omega, hlo, hhi⟩
  · exact absurd rfl hne
  · exact absurd rfl hne
  · exact absurd rfl hne
  · exact absurd (writeStatus_octetAt _ v a) hne
  · exact absurd (writeInLen_octetAt _ v a) hne

end Sys2Proof.OctetChanges

namespace Sys2Proof

open Machine Claims OctetChanges

/-- Settles O58: a case per event of the port; a transaction by `perform_octetAt`, the engine's turn by
`engineTurn_octetAt`, a reset edge by itself. -/
theorem whatChangesTheBuffers : Obligations.WhatChangesTheBuffers := by
  unfold Obligations.WhatChangesTheBuffers
  intro s t a h hne
  rcases step_cases h with ⟨hp, rfl⟩ | ⟨x, rest, hp, -, hx⟩ | ⟨rest, hp, rfl⟩ | ⟨rest, hp, -⟩ |
    ⟨rest, hp, -⟩
  · obtain ⟨hout, hb⟩ := engineTurn_octetAt s a hne
    exact .inr (.inr ⟨hout, hb, .inl hp⟩)
  · obtain ⟨hin, hb, v, hcovers⟩ := perform_octetAt hx a hne
    exact .inr (.inl ⟨hin, hb, x, v, rest, hp, hcovers⟩)
  · obtain ⟨hout, hb⟩ := engineTurn_octetAt (s.withPort rest) a hne
    exact .inr (.inr ⟨hout, hb, .inr ⟨rest, hp⟩⟩)
  · exact .inl ⟨rest, .inl hp⟩
  · exact .inl ⟨rest, .inr hp⟩

end Sys2Proof
end

section
/-! The block from outside: a step for each event at its port (20_memory.md R80), and the system
addresses that reach it (20_memory.md R60). -/

namespace Sys2Proof

open Machine

/-- Settles O4: the equation of a step for each event. -/
theorem stepTakesTheNextEvent : Obligations.StepTakesTheNextEvent := by
  unfold Obligations.StepTakesTheNextEvent
  exact fun s => ⟨step_idlePort, fun _ _ => step_txn, fun _ => step_engineSlot,
    fun _ => step_resetAssert, fun _ => step_resetRelease⟩

/-- Settles O52: BASE is a multiple of 0x40000, so the quotient by 0x40000 tells the block's addresses
from all others and the remainder is the offset. -/
theorem baseSelectsTheBlock : Obligations.BaseSelectsTheBlock := by
  unfold Obligations.BaseSelectsTheBlock
  intro p hw
  have hbase : p.base % 0x40000 = 0 := by
    simp only [Config.Params.wf, Bool.and_eq_true, decide_eq_true_eq] at hw
    exact hw.2
  refine ⟨fun a => ?_, fun sysAddr hout => ?_⟩
  · have ha := a.isLt
    have hoffset : BitVec.ofNat 18 (p.base + a.toNat) = a :=
      BitVec.eq_of_toNat_eq (by rw [BitVec.toNat_ofNat]; omega)
    rw [selectedOffset, if_pos (by omega), hoffset]
  · rw [selectedOffset, if_neg (by omega)]

end Sys2Proof
end

section
/-! The command words (30_encoding.md R90, R94, R96): a word is its fields, and the decoder reads a
command from exactly the fields that are well-formed. -/

namespace Sys2Proof

/-! ### Words and fields (30_encoding.md R90) -/

/-- The bit `H` as a slice of the word, like the other two fields. -/
theorem ofBool_getLsbD_eq_extractLsb' (w : Word) :
    BitVec.ofBool (w.getLsbD 4) = w.extractLsb' 4 1 := by
  ext b hb
  obtain rfl : b = 0 := by omega
  simp

/-- The three fields are adjacent and cover the word. -/
theorem wordOfFields_fieldsOfWord (w : Word) : wordOfFields (fieldsOfWord w) = w :=
  calc wordOfFields (fieldsOfWord w)
      = w.extractLsb' 5 27 ++ w.extractLsb' 4 1 ++ w.extractLsb' 0 4 := by
        rw [← ofBool_getLsbD_eq_extractLsb']; rfl
    _ = w.extractLsb' 4 28 ++ w.extractLsb' 0 4 :=
        congrArg (· ++ w.extractLsb' 0 4) (BitVec.extractLsb'_append_extractLsb'_eq_extractLsb' rfl)
    _ = w.extractLsb' 0 32 := BitVec.extractLsb'_append_extractLsb'_eq_extractLsb' rfl
    _ = w := BitVec.extractLsb'_eq_self

/-! ### Encoding a command (30_encoding.md R90) -/

theorem encoding_statement (i : Instr) : Laws.Encoding.Statement i := by
  cases i with
  | nop => exact Laws.Encoding.nop
  | encodeStd => exact Laws.Encoding.encodeStd
  | encodeHex => exact Laws.Encoding.encodeHex
  | decodeStd => exact Laws.Encoding.decodeStd
  | decodeHex => exact Laws.Encoding.decodeHex

theorem Instr.wf_eq_true (i : Instr) : i.wf = true := by
  cases i <;> rfl

theorem fieldsOfInstr_wf (i : Instr) : (fieldsOfInstr i).wf = true :=
  (encoding_statement i i.wf_eq_true).1

theorem decode_encode (i : Instr) : decode (encode i) = .command i := by
  obtain ⟨-, -, hdecode⟩ := encoding_statement i i.wf_eq_true
  exact hdecode

@[simp] theorem encode_nop : encode .nop = 0x00000000 := rfl
@[simp] theorem encode_encodeStd : encode .encodeStd = 0x00000001 := rfl
@[simp] theorem encode_encodeHex : encode .encodeHex = 0x00000011 := rfl
@[simp] theorem encode_decodeStd : encode .decodeStd = 0x00000002 := rfl
@[simp] theorem encode_decodeHex : encode .decodeHex = 0x00000012 := rfl

/-! ### Decoding a word (30_encoding.md R94, R96) -/

theorem CommandFields.wf_eq_false_iff (c : CommandFields) :
    c.wf = false ↔ c.rsv ≠ 0 ∨ 3 ≤ c.op.toNat ∨ (c.op = 0 ∧ c.h = true) := by
  have hop : ¬ c.op ≤ 2 ↔ 3 ≤ c.op.toNat := by
    bv_omega
  simp only [CommandFields.wf, Bool.and_eq_false_iff, Bool.not_eq_false', Bool.and_eq_true,
    decide_eq_false_iff_not, decide_eq_true_eq, hop, or_assoc, ne_eq]

/-- The decoder's two kinds of answer, each with the fields that give it. -/
theorem decode_cases (w : Word) :
    (∃ i, decode w = .command i ∧ fieldsOfWord w = fieldsOfInstr i) ∨
    (∃ why, decode w = .illegal why ∧ (fieldsOfWord w).wf = false) := by
  unfold decode
  generalize fieldsOfWord w = c
  obtain ⟨rsv, h, op⟩ := c
  by_cases hrsv : rsv = 0
  case neg =>
    exact .inr ⟨.reservedBits, if_pos hrsv, (CommandFields.wf_eq_false_iff _).mpr (.inl hrsv)⟩
  subst hrsv
  by_cases hnop : op = 0x0
  · subst hnop
    cases h with
    | false => exact .inl ⟨.nop, rfl, rfl⟩
    | true => exact .inr ⟨.nopWithH, rfl, rfl⟩
  by_cases hencode : op = 0x1
  · subst hencode
    cases h with
    | false => exact .inl ⟨.encodeStd, rfl, rfl⟩
    | true => exact .inl ⟨.encodeHex, rfl, rfl⟩
  by_cases hdecode : op = 0x2
  · subst hdecode
    cases h with
    | false => exact .inl ⟨.decodeStd, rfl, rfl⟩
    | true => exact .inl ⟨.decodeHex, rfl, rfl⟩
  have hop : 3 ≤ op.toNat := by bv_omega
  exact .inr ⟨.reservedOp, by simp only [ne_eq, not_true_eq_false, if_false, hnop, hencode, hdecode],
    (CommandFields.wf_eq_false_iff _).mpr (.inr (.inl hop))⟩

theorem decode_eq_command_iff (w : Word) (i : Instr) : decode w = .command i ↔ w = encode i := by
  constructor
  · intro hw
    rcases decode_cases w with ⟨j, hj, hfields⟩ | ⟨why, hwhy, -⟩
    · obtain rfl : j = i := Decoded.command.inj (hj.symm.trans hw)
      rw [encode, ← hfields, wordOfFields_fieldsOfWord]
    · exact nomatch hwhy.symm.trans hw
  · rintro rfl
    exact decode_encode i

theorem decode_illegal_iff (w : Word) :
    (∃ why, decode w = .illegal why) ↔ (fieldsOfWord w).wf = false := by
  rcases decode_cases w with ⟨i, hi, hfields⟩ | ⟨why, hwhy, hwf⟩
  · simp [hi, hfields, fieldsOfInstr_wf]
  · simp [hwhy, hwf]

/-! ### The obligations -/

/-- Settles O2: the words of the commands are their encodings, and the illegal words are those whose
fields are not well-formed. -/
theorem exactlyFiveWordsAreLegal : Obligations.ExactlyFiveWordsAreLegal := by
  unfold Obligations.ExactlyFiveWordsAreLegal
  refine ⟨fun w i => ?_, fun w => ?_⟩
  · rw [decode_eq_command_iff]
    cases i <;> simp
  · rw [decode_illegal_iff, CommandFields.wf_eq_false_iff]
    rfl

/-- Settles O1: each command word is the encoding of its command; the illegal words by evaluation. -/
theorem wordsOfTheTableDecode : Obligations.WordsOfTheTableDecode := by
  unfold Obligations.WordsOfTheTableDecode
  exact ⟨decode_encode .nop, decode_encode .encodeStd, decode_encode .encodeHex,
    decode_encode .decodeStd, decode_encode .decodeHex, by decide⟩

/-- Settles O3, a command at a time. -/
theorem decodeInvertsEncode : Obligations.DecodeInvertsEncode := by
  unfold Obligations.DecodeInvertsEncode
  exact fun i _ => decode_encode i

end Sys2Proof
end

section
/-! The alphabet tables and the classes of an octet (40_alphabet.md R112 to R119): DEC_LUT inverts
ENC_LUT, its domain is the digits and letters of the alphabet, and an octet classifies as a symbol
exactly when its normalised octet is in that domain. -/

namespace Sys2Proof.AlphabetTables

open Sys2Proof.Machine

/-! ### The tables invert each other (40_alphabet.md R114) -/

@[simp] theorem decLut_encLut (h : Alphabet) (v : BitVec 5) : decLut h (encLut h v) = some v := by
  cases h with
  | std =>
    by_cases hv : v < 26
    · have hin : 0x41 ≤ 0x41 + v.setWidth 8 ∧ 0x41 + v.setWidth 8 ≤ 0x5A := by bv_omega
      rw [encLut, if_pos hv, decLut, if_pos hin, Option.some_inj]
      bv_omega
    · have hout : ¬(0x41 ≤ 0x18 + v.setWidth 8 ∧ 0x18 + v.setWidth 8 ≤ 0x5A) := by bv_omega
      have hin : 0x32 ≤ 0x18 + v.setWidth 8 ∧ 0x18 + v.setWidth 8 ≤ 0x37 := by bv_omega
      rw [encLut, if_neg hv, decLut, if_neg hout, if_pos hin, Option.some_inj]
      bv_omega
  | hex =>
    by_cases hv : v < 10
    · have hin : 0x30 ≤ 0x30 + v.setWidth 8 ∧ 0x30 + v.setWidth 8 ≤ 0x39 := by bv_omega
      rw [encLut, if_pos hv, decLut, if_pos hin, Option.some_inj]
      bv_omega
    · have hout : ¬(0x30 ≤ 0x37 + v.setWidth 8 ∧ 0x37 + v.setWidth 8 ≤ 0x39) := by bv_omega
      have hin : 0x41 ≤ 0x37 + v.setWidth 8 ∧ 0x37 + v.setWidth 8 ≤ 0x56 := by bv_omega
      rw [encLut, if_neg hv, decLut, if_neg hout, if_pos hin, Option.some_inj]
      bv_omega

theorem encLut_of_decLut {h : Alphabet} {c : Byte} {v : BitVec 5} (hc : decLut h c = some v) :
    encLut h v = c := by
  cases h with
  | std =>
    rw [decLut] at hc
    split at hc
    case isTrue hletter =>
      obtain rfl := Option.some.inj hc
      rw [encLut, if_pos (by bv_omega)]
      bv_omega
    case isFalse =>
      obtain ⟨hdigit, hv⟩ := Option.ite_none_right_eq_some.mp hc
      obtain rfl := Option.some.inj hv
      rw [encLut, if_neg (by bv_omega)]
      bv_omega
  | hex =>
    rw [decLut] at hc
    split at hc
    case isTrue hdigit =>
      obtain rfl := Option.some.inj hc
      rw [encLut, if_pos (by bv_omega)]
      bv_omega
    case isFalse =>
      obtain ⟨hletter, hv⟩ := Option.ite_none_right_eq_some.mp hc
      obtain rfl := Option.some.inj hv
      rw [encLut, if_neg (by bv_omega)]
      bv_omega

theorem decLut_eq_some_iff {h : Alphabet} {c : Byte} {v : BitVec 5} :
    decLut h c = some v ↔ encLut h v = c :=
  ⟨encLut_of_decLut, fun e => e ▸ decLut_encLut h v⟩

/-! ### The members of the alphabets (40_alphabet.md R113) -/

theorem isSome_decLut_std_iff (c : Byte) : (decLut .std c).isSome = true ↔
    (0x32 ≤ c ∧ c ≤ 0x37) ∨ (0x41 ≤ c ∧ c ≤ 0x5A) := by
  rw [decLut]
  split
  case isTrue hletter => exact iff_of_true rfl (.inr hletter)
  case isFalse hletter => rw [Option.isSome_ite, or_iff_left hletter]

theorem isSome_decLut_hex_iff (c : Byte) : (decLut .hex c).isSome = true ↔
    (0x30 ≤ c ∧ c ≤ 0x39) ∨ (0x41 ≤ c ∧ c ≤ 0x56) := by
  rw [decLut]
  split
  case isTrue hdigit => exact iff_of_true rfl (.inl hdigit)
  case isFalse hdigit => rw [Option.isSome_ite, or_iff_right hdigit]

/-- The members of either alphabet are digits and uppercase letters. -/
theorem digit_or_letter_of_member {h : Alphabet} {c : Byte} (hc : (decLut h c).isSome = true) :
    (0x30 ≤ c ∧ c ≤ 0x39) ∨ (0x41 ≤ c ∧ c ≤ 0x5A) := by
  cases h with
  | std => rw [isSome_decLut_std_iff] at hc; bv_omega
  | hex => rw [isSome_decLut_hex_iff] at hc; bv_omega

theorem isSome_decLut_encLut (h : Alphabet) (v : BitVec 5) :
    (decLut h (encLut h v)).isSome = true := by
  rw [decLut_encLut, Option.isSome_some]

theorem le_space_of_isWS {c : Byte} (hc : isWS c = true) : c ≤ 0x20 := by
  simp only [isWS, Bool.or_eq_true, beq_iff_eq] at hc
  bv_omega

theorem isWS_eq_false_of_space_lt {c : Byte} (hc : 0x20 < c) : isWS c = false :=
  Bool.eq_false_iff.mpr fun hws => BitVec.not_lt.mpr (le_space_of_isWS hws) hc

theorem isWS_eq_false_of_member {h : Alphabet} {c : Byte} (hc : (decLut h c).isSome = true) :
    isWS c = false := by
  have hrange := digit_or_letter_of_member hc
  exact isWS_eq_false_of_space_lt (by bv_omega)

theorem ne_padOctet_of_member {h : Alphabet} {c : Byte} (hc : (decLut h c).isSome = true) :
    c ≠ padOctet := by
  have hrange := digit_or_letter_of_member hc
  unfold padOctet
  bv_omega

theorem not_lowercase_of_member {h : Alphabet} {c : Byte} (hc : (decLut h c).isSome = true) :
    ¬(0x61 ≤ c ∧ c ≤ 0x7A) := by
  have hrange := digit_or_letter_of_member hc
  bv_omega

@[simp] theorem decLut_padOctet (h : Alphabet) : decLut h padOctet = none :=
  Option.not_isSome_iff_eq_none.mp fun hc => ne_padOctet_of_member hc rfl

/-! ### The case normaliser (40_alphabet.md R117) -/

theorem up_of_lowercase {c : Byte} (hc : 0x61 ≤ c ∧ c ≤ 0x7A) : up c = c - 0x20 := if_pos hc

theorem up_of_not_lowercase {c : Byte} (hc : ¬(0x61 ≤ c ∧ c ≤ 0x7A)) : up c = c := if_neg hc

theorem up_cases (c : Byte) :
    ((0x61 ≤ c ∧ c ≤ 0x7A) ∧ up c = c - 0x20) ∨ (¬(0x61 ≤ c ∧ c ≤ 0x7A) ∧ up c = c) :=
  (em _).imp (fun hc => ⟨hc, up_of_lowercase hc⟩) fun hc => ⟨hc, up_of_not_lowercase hc⟩

theorem up_of_isWS {c : Byte} (hc : isWS c = true) : up c = c := by
  have hle := le_space_of_isWS hc
  exact up_of_not_lowercase (by bv_omega)

/-! ### The classes of an octet (40_alphabet.md R118) -/

/-- The order of the tests does not matter for a symbol: whitespace and `=` normalise to no member. -/
theorem classify_eq_sym_iff {h : Alphabet} {c : Byte} {v : BitVec 5} :
    classify h c = .sym v ↔ decLut h (up c) = some v := by
  unfold classify
  split
  case isTrue hws =>
    refine iff_of_false (nomatch ·) fun hv => ?_
    have hmember : (decLut h c).isSome = true := by rw [← up_of_isWS hws, hv, Option.isSome_some]
    exact absurd hws (Bool.eq_false_iff.mp (isWS_eq_false_of_member hmember))
  case isFalse =>
    split
    case isTrue hpad =>
      rw [hpad, decLut_padOctet]
      exact iff_of_false (nomatch ·) (nomatch ·)
    case isFalse => cases decLut h (up c) <;> simp

theorem exists_classify_eq_sym_iff (h : Alphabet) (c : Byte) :
    (∃ v, classify h c = .sym v) ↔ (decLut h (up c)).isSome = true := by
  simp only [classify_eq_sym_iff, Option.isSome_iff_exists]

theorem classify_eq_bad {h : Alphabet} {c : Byte} (hws : isWS c = false) (hpad : up c ≠ padOctet)
    (hnone : decLut h (up c) = none) : classify h c = .bad (up c) := by
  simp only [classify, hws, Bool.false_eq_true, if_false, hpad, hnone]

end Sys2Proof.AlphabetTables

namespace Sys2Proof

open Machine AlphabetTables

/-- Settles O19: the two tables invert each other, and a value of ENC_LUT is a member, so a digit or an
uppercase letter. -/
theorem alphabetTablesAreInverse : Obligations.AlphabetTablesAreInverse := by
  unfold Obligations.AlphabetTablesAreInverse
  refine ⟨decLut_encLut, fun h c v => encLut_of_decLut, decLut_padOctet, fun h v => ?_⟩
  have hmember := isSome_decLut_encLut h v
  exact ⟨not_lowercase_of_member hmember, isWS_eq_false_of_member hmember, ne_padOctet_of_member hmember⟩

/-- Settles O20: a symbol's normalised octet is a member; a lowercase letter and the uppercase letter
0x20 below it normalise to the same octet. -/
theorem octetsAcceptedAsSymbols : Obligations.OctetsAcceptedAsSymbols := by
  unfold Obligations.OctetsAcceptedAsSymbols
  refine ⟨fun c => ?_, fun c => ?_, fun c hlo hhi => ?_⟩
  · have hup := up_cases c
    rw [exists_classify_eq_sym_iff, isSome_decLut_std_iff]
    bv_omega
  · have hup := up_cases c
    rw [exists_classify_eq_sym_iff, isSome_decLut_hex_iff]
    bv_omega
  · have hup : up c = c - 0x20 := up_of_lowercase ⟨by bv_omega, hhi⟩
    have hws : isWS c = false := isWS_eq_false_of_space_lt (by bv_omega)
    have hpad : c - 0x20 ≠ padOctet := by unfold padOctet; bv_omega
    have hnone : decLut .hex (c - 0x20) = none := by
      rw [← Option.not_isSome_iff_eq_none, isSome_decLut_hex_iff]
      bv_omega
    rw [← hup] at hpad hnone ⊢
    exact classify_eq_bad hws hpad hnone

end Sys2Proof
end

section
/-! Bit sequences (00_scope.md R9): their value, most-significant bit first, and the values of their
complete groups of `w` bits, from which both functional forms are made (41_encode.md R135, 42_decode.md
R162). -/

namespace Sys2Proof.BitGroups

open Sys2Proof.Machine

/-! ### The value of a bit sequence -/

theorem bitsVal_concat (x : List Bool) (b : Bool) : bitsVal (x ++ [b]) = 2 * bitsVal x + b.toNat := by
  simp only [bitsVal, List.foldl_append, List.foldl_cons, List.foldl_nil]

theorem bitsVal_append (x y : List Bool) :
    bitsVal (x ++ y) = bitsVal x * 2 ^ y.length + bitsVal y := by
  induction y using List.reverseRecOn with
  | nil => simp [bitsVal]
  | append_singleton y b ih =>
    rw [← List.append_assoc, bitsVal_concat, bitsVal_concat, ih, List.length_append,
      List.length_singleton, pow_succ]
    ring

theorem bitsVal_lt (x : List Bool) : bitsVal x < 2 ^ x.length := by
  induction x using List.reverseRecOn with
  | nil => simp [bitsVal]
  | append_singleton x b ih =>
    rw [bitsVal_concat, List.length_append, List.length_singleton, pow_succ]
    have hb := b.toNat_le
    omega

theorem bitsVal_replicate_false (n : Nat) : bitsVal (List.replicate n false) = 0 := by
  induction n with
  | zero => rfl
  | succ n ih => rw [List.replicate_succ', bitsVal_concat, ih]; rfl

/-- The leading bits are the quotient by the weight of the others. -/
theorem bitsVal_append_div (x y : List Bool) : bitsVal (x ++ y) / 2 ^ y.length = bitsVal x := by
  rw [bitsVal_append, mul_comm, Nat.mul_add_div (by positivity), Nat.div_eq_of_lt (bitsVal_lt y),
    Nat.add_zero]

/-- The trailing bits are the remainder. -/
theorem bitsVal_append_mod (x y : List Bool) : bitsVal (x ++ y) % 2 ^ y.length = bitsVal y := by
  rw [bitsVal_append, Nat.mul_add_mod_self_right, Nat.mod_eq_of_lt (bitsVal_lt y)]

@[simp] theorem bits8_length (o : Byte) : (bits8 o).length = 8 := rfl

theorem bitsVal_bits8 (o : Byte) : bitsVal (bits8 o) = o.toNat := by
  have ho := o.isLt
  simp only [bitsVal, bits8, List.foldl_cons, List.foldl_nil, BitVec.getLsbD, Nat.toNat_testBit]
  omega

theorem flatMap_bits8_length (b : List Byte) : (b.flatMap bits8).length = 8 * b.length := by
  simp [List.length_flatMap, mul_comm]

/-! ### Complete groups -/

/-- The values of the complete groups of `w` bits, in order. -/
def groupValues (w : Nat) (bits : List Bool) : List Nat :=
  (List.range (bits.length / w)).map fun k => bitsVal (bitSlice bits (w * k) (w * k + w))

@[simp] theorem groupValues_length (w : Nat) (bits : List Bool) :
    (groupValues w bits).length = bits.length / w := by
  simp [groupValues]

theorem groupValues_nil (w : Nat) : groupValues w [] = [] := by simp [groupValues]

theorem bitSlice_append_left {x : List Bool} {i j : Nat} (hj : j ≤ x.length) (y : List Bool) :
    bitSlice (x ++ y) i j = bitSlice x i j := by
  rw [bitSlice, bitSlice, List.take_append_of_le_length hj]

theorem bitSlice_append_right (x y : List Bool) :
    bitSlice (x ++ y) x.length (x.length + y.length) = y := by
  rw [bitSlice, ← List.length_append, List.take_length, List.drop_left]

/-- One more complete group is one more value. -/
theorem groupValues_append_group {w : Nat} {full group : List Bool} (hw : 0 < w) (hfull : w ∣ full.length)
    (hgroup : group.length = w) :
    groupValues w (full ++ group) = groupValues w full ++ [bitsVal group] := by
  obtain ⟨q, hq⟩ := hfull
  have hcount : (full ++ group).length / w = q + 1 := by
    rw [List.length_append, hq, hgroup, ← Nat.mul_succ, Nat.mul_div_cancel_left _ hw]
  have hcount' : full.length / w = q := by rw [hq, Nat.mul_div_cancel_left _ hw]
  have hlast : bitSlice (full ++ group) (w * q) (w * q + w) = group := by
    rw [← hq, ← hgroup, bitSlice_append_right]
  rw [groupValues, groupValues, hcount, hcount', List.range_succ, List.map_append, List.map_singleton,
    hlast]
  congr 1
  refine List.map_congr_left fun k hk => ?_
  rw [bitSlice_append_left]
  calc w * k + w = w * (k + 1) := (Nat.mul_succ w k).symm
    _ ≤ w * q := Nat.mul_le_mul_left w (List.mem_range.mp hk)
    _ = full.length := hq.symm

end Sys2Proof.BitGroups
end

section
/-! What a stage of a running command writes to OUT_BUF (41_encode.md R134, 42_decode.md R169): octets
one after the other from index `e.wr` on, and nothing elsewhere. -/

namespace Sys2Proof.OutputStream

open Sys2Proof.Machine Sys2Proof.Claims

/-- From `s` to `t` the engine wrote the octets `out` at the indices from `e.wr` on. -/
structure Appends (s t : State) (out : List Byte) : Prop where
  wr : t.eng.wr = s.eng.wr + out.length
  written : t.memReadOut s.eng.wr out.length = out
  others : SameOctetsOutside s t (outAddr s.eng.wr) (outAddr t.eng.wr)

theorem memReadOut_add (s : State) (i m n : Nat) :
    s.memReadOut i (m + n) = s.memReadOut i m ++ s.memReadOut (i + m) n := by
  simp only [State.memReadOut, List.range_add, List.map_append, List.map_map, Function.comp_def,
    Nat.add_assoc]

theorem memReadOut_congr {s t : State} {i n : Nat}
    (h : ∀ a, outAddr i ≤ a → a < outAddr (i + n) → t.octetAt a = s.octetAt a) :
    t.memReadOut i n = s.memReadOut i n := by
  refine List.map_congr_left fun k hk => h _ ?_ ?_ <;>
    (have := List.mem_range.mp hk; simp only [outAddr]; omega)

namespace Appends

variable {s t u : State}

/-- A change of engine elements that leaves `e.wr` writes nothing. -/
theorem ofEngine (s : State) (e : Engine) (hw : e.wr = s.eng.wr) : Appends s { s with eng := e } [] :=
  ⟨hw, rfl, fun _ _ => rfl⟩

theorem refl (s : State) : Appends s s [] := .ofEngine s s.eng rfl

/-- The write of the next output octet. -/
theorem writeNext (s : State) (o : Byte) (e : Engine) (hw : e.wr = s.eng.wr + 1) :
    Appends s { s.memWriteOut s.eng.wr o with eng := e } [o] where
  wr := hw
  written := by
    have hsame : (s.memWriteOut s.eng.wr o).octetAt (outAddr s.eng.wr) = o := by
      rw [State.octetAt_memWriteOut, if_pos rfl]
    exact congrArg (fun x => [x]) hsame
  others a ha := by
    have hne : outAddr s.eng.wr ≠ a := by simp only [hw, outAddr] at ha ⊢; omega
    exact (State.octetAt_memWriteOut s _ o a).trans (if_neg hne)

theorem trans {x y : List Byte} (h1 : Appends s t x) (h2 : Appends t u y) : Appends s u (x ++ y) where
  wr := by rw [h2.wr, h1.wr, List.length_append, Nat.add_assoc]
  written := by
    have hkept : u.memReadOut s.eng.wr x.length = t.memReadOut s.eng.wr x.length :=
      memReadOut_congr fun a _ ha => h2.others a (.inl (h1.wr ▸ ha))
    rw [List.length_append, memReadOut_add, hkept, h1.written, ← h1.wr, h2.written]
  others a ha := by
    have hwr1 := h1.wr
    have hwr2 := h2.wr
    simp only [outAddr] at ha
    rw [h2.others a (by simp only [outAddr]; omega), h1.others a (by simp only [outAddr]; omega)]

end Appends

end Sys2Proof.OutputStream
end

section
/-! The functional form of ENCODE (41_encode.md R135) as symbols of 5-bit groups followed by padding,
and its laws (R137, R139, R140). -/

namespace Sys2Proof.EncodeForm

open Sys2Proof.Machine Sys2Proof.AlphabetTables Sys2Proof.BitGroups

/-- The indices of the symbols of a bit sequence, one for each complete 5-bit group. -/
def symbolIndices (bits : List Bool) : List (BitVec 5) := (groupValues 5 bits).map (BitVec.ofNat 5)

/-- The symbols of a bit sequence. -/
def symbolsOf (h : Alphabet) (bits : List Bool) : List Byte := (symbolIndices bits).map (encLut h)

/-- The number of `=` after the symbols of `n` octets. -/
def padCount (n : Nat) : Nat := 8 * ceilDiv n 5 - ceilDiv (8 * n) 5

@[simp] theorem symbolsOf_length (h : Alphabet) (bits : List Bool) :
    (symbolsOf h bits).length = bits.length / 5 := by
  simp [symbolsOf, symbolIndices]

theorem symbolsOf_nil (h : Alphabet) : symbolsOf h [] = [] := by
  simp [symbolsOf, symbolIndices, groupValues_nil]

theorem symbolsOf_append_group (h : Alphabet) {full group : List Bool} (hfull : 5 ∣ full.length)
    (hgroup : group.length = 5) :
    symbolsOf h (full ++ group) =
      symbolsOf h full ++ [encLut h (BitVec.ofNat 5 (bitsVal group))] := by
  simp only [symbolsOf, symbolIndices, groupValues_append_group (by decide) hfull hgroup,
    List.map_append, List.map_cons, List.map_nil]

theorem encodeBits_length (b : List Byte) : (encodeBits b).length = 5 * ceilDiv (8 * b.length) 5 := by
  simp only [encodeBits, List.length_append, flatMap_bits8_length, List.length_replicate, ceilDiv]
  omega

theorem encodeFn_eq (h : Alphabet) (b : List Byte) :
    encodeFn h b = symbolsOf h (encodeBits b) ++ List.replicate (padCount b.length) padOctet := by
  have hcount : (encodeBits b).length / 5 = ceilDiv (8 * b.length) 5 := by
    rw [encodeBits_length, Nat.mul_div_cancel_left _ (by decide)]
  have hpad : 8 * ceilDiv (ceilDiv (8 * b.length) 5) 8 = 8 * ceilDiv b.length 5 := by
    simp only [ceilDiv]
    omega
  simp only [encodeFn, symbolsOf, symbolIndices, groupValues, symbolIndex, padCount, hcount, hpad,
    List.map_map, Function.comp_def]

theorem encodeFn_length (h : Alphabet) (b : List Byte) :
    (encodeFn h b).length = 8 * ceilDiv b.length 5 := by
  rw [encodeFn_eq, List.length_append, symbolsOf_length, encodeBits_length, List.length_replicate]
  simp only [padCount, ceilDiv]
  omega

/-! ### Symbols are members, padding is not (41_encode.md R140) -/

theorem member_of_mem_symbolsOf {h : Alphabet} {bits : List Bool} {x : Byte}
    (hx : x ∈ symbolsOf h bits) : (decLut h x).isSome = true := by
  obtain ⟨v, -, rfl⟩ := List.mem_map.mp hx
  exact isSome_decLut_encLut h v

theorem filter_symbols_encodeFn (h : Alphabet) (b : List Byte) :
    (encodeFn h b).filter (fun x => x != padOctet) = symbolsOf h (encodeBits b) := by
  have hkeep : (symbolsOf h (encodeBits b)).filter (fun x => x != padOctet) = symbolsOf h (encodeBits b) :=
    List.filter_eq_self.mpr fun x hx => bne_iff_ne.mpr (ne_padOctet_of_member (member_of_mem_symbolsOf hx))
  simp [encodeFn_eq, List.filter_append, hkeep]

theorem filter_padding_encodeFn (h : Alphabet) (b : List Byte) :
    (encodeFn h b).filter (fun x => x == padOctet) = List.replicate (padCount b.length) padOctet := by
  have hdrop : (symbolsOf h (encodeBits b)).filter (fun x => x == padOctet) = [] :=
    List.filter_eq_nil_iff.mpr fun x hx he =>
      ne_padOctet_of_member (member_of_mem_symbolsOf hx) (beq_iff_eq.mp he)
  simp [encodeFn_eq, List.filter_append, hdrop]

/-! ### The two alphabets (41_encode.md R139) -/

theorem encLut_std_ne_hex (v : BitVec 5) : encLut .std v ≠ encLut .hex v := by
  rw [encLut, encLut]
  split_ifs <;> bv_omega

theorem symbolsOf_std_ne_hex {bits : List Bool} (hbits : 5 ≤ bits.length) :
    symbolsOf .std bits ≠ symbolsOf .hex bits := by
  unfold symbolsOf
  cases hv : symbolIndices bits with
  | nil =>
    have hlen : (symbolIndices bits).length = bits.length / 5 := by simp [symbolIndices]
    rw [hv, List.length_nil] at hlen
    omega
  | cons v vs => exact fun he => encLut_std_ne_hex v (List.cons.inj he).1

end Sys2Proof.EncodeForm

namespace Sys2Proof

open Machine AlphabetTables EncodeForm

/-- Settles O16: the counts of symbols, `=` and fill bits as functions of the length, read off row by
row of the table. -/
theorem encodeOutputLength : Obligations.EncodeOutputLength := by
  unfold Obligations.EncodeOutputLength
  intro h b
  have hbits := encodeBits_length b
  rw [filter_symbols_encodeFn, filter_padding_encodeFn, symbolsOf_length, List.length_replicate,
    encodeFn_length]
  refine ⟨rfl, Nat.mul_mod_right _ _, fun q r hn hr => ?_⟩
  simp only [hbits, hn, padCount, ceilDiv]
  interval_cases r <;> simp only [List.getD_cons_zero, List.getD_cons_succ] <;> omega

/-- Settles O17: the symbols of the 5-bit groups are members, and the run of `=` has the length that
the number of octets modulo 5 gives. -/
theorem encodeOutputIsABase32String : Obligations.EncodeOutputIsABase32String := by
  unfold Obligations.EncodeOutputIsABase32String
  intro h b
  refine ⟨_, _, encodeFn_eq h b, fun x hx => ?_, ?_, ?_⟩
  · have hmember := member_of_mem_symbolsOf hx
    exact ⟨hmember, ne_padOctet_of_member hmember⟩
  · simp only [padCount, ceilDiv]
    omega
  · rw [encodeFn_length]
    exact Nat.mul_mod_right _ _

/-- Settles O18: both outputs are the symbols of the same indices with the same padding; the first
symbol of a nonempty input differs. -/
theorem alphabetsDifferInSymbolsOnly : Obligations.AlphabetsDifferInSymbolsOnly := by
  unfold Obligations.AlphabetsDifferInSymbolsOnly
  refine ⟨encLut_std_ne_hex, fun b => ⟨_, _, encodeFn_eq .std b, encodeFn_eq .hex b, fun hb => ?_⟩⟩
  have hlen : 0 < b.length := List.length_pos_iff.mpr hb
  have hbits : 5 ≤ (encodeBits b).length := by rw [encodeBits_length, ceilDiv]; omega
  rw [encodeFn_eq, encodeFn_eq]
  exact fun he => symbolsOf_std_ne_hex hbits (List.append_cancel_right he)

end Sys2Proof
end

section
/-! The bit accumulator `e.acc` with `e.nb` (10_state.md R40): the bits that the grouper and the unpacker
push at its low end and pop at its high end (41_encode.md R131, R132, 42_decode.md R168). -/

namespace Sys2Proof.Accumulator

open Sys2Proof.Machine Sys2Proof.BitGroups

/-- The accumulator holds exactly these bits, oldest first. -/
structure Holds (s : State) (bits : List Bool) : Prop where
  nb : s.eng.nb = bits.length
  acc : s.eng.acc.toNat = bitsVal bits
  fits : bits.length ≤ 12

theorem lowBits_toNat (acc : BitVec 12) {nb : Nat} (h : nb < 12) :
    (lowBits acc nb).toNat = acc.toNat % 2 ^ nb := by
  have hpow : 2 ^ nb < 2 ^ 12 := Nat.pow_lt_pow_right (by decide) h
  have hmask : ((1#12 <<< nb) - 1#12).toNat = 2 ^ nb - 1 := by
    have hpos : 0 < 2 ^ nb := by positivity
    rw [BitVec.toNat_sub, BitVec.toNat_shiftLeft, BitVec.toNat_ofNat, Nat.shiftLeft_eq]
    omega
  rw [lowBits, BitVec.toNat_and, hmask, Nat.and_two_pow_sub_one_eq_mod]

theorem setWidth_eq_ofNat {n : Nat} (x : BitVec n) (m : Nat) : x.setWidth m = BitVec.ofNat m x.toNat :=
  BitVec.eq_of_toNat_eq (by rw [BitVec.toNat_setWidth, BitVec.toNat_ofNat])

variable {s : State} {bits group rest : List Bool}

/-- Bits shifted in at the low end. -/
theorem Holds.push (hs : Holds s bits) {k : Nat} (v : BitVec k) {x : List Bool} (hx : x.length = k)
    (hv : bitsVal x = v.toNat) (hfits : bits.length + k ≤ 12) :
    ((s.eng.acc <<< k) ||| v.setWidth 12).toNat = bitsVal (bits ++ x) := by
  have hshift : s.eng.acc.toNat * 2 ^ k < 2 ^ 12 :=
    calc s.eng.acc.toNat * 2 ^ k < 2 ^ bits.length * 2 ^ k :=
          Nat.mul_lt_mul_of_pos_right (hs.acc ▸ bitsVal_lt bits) (by positivity)
      _ = 2 ^ (bits.length + k) := (pow_add 2 _ k).symm
      _ ≤ 2 ^ 12 := Nat.pow_le_pow_right (by decide) hfits
  have hwide : v.toNat < 2 ^ 12 := v.isLt.trans_le (Nat.pow_le_pow_right (by decide) (by omega))
  rw [BitVec.toNat_or, BitVec.toNat_shiftLeft, BitVec.toNat_setWidth, Nat.shiftLeft_eq,
    Nat.mod_eq_of_lt hshift, Nat.mod_eq_of_lt hwide, ← Nat.shiftLeft_eq,
    ← Nat.shiftLeft_add_eq_or_of_lt v.isLt, Nat.shiftLeft_eq, bitsVal_append, hx, hv, hs.acc]

/-- The oldest bits, read at the high end. -/
theorem Holds.oldest (hs : Holds s (group ++ rest)) (w : Nat) :
    (s.eng.acc >>> rest.length).setWidth w = BitVec.ofNat w (bitsVal group) := by
  rw [setWidth_eq_ofNat, BitVec.toNat_ushiftRight, Nat.shiftRight_eq_div_pow, hs.acc,
    bitsVal_append_div]

/-- What stays when the oldest bits have left. -/
theorem Holds.newest (hs : Holds s (group ++ rest)) (hgroup : group ≠ []) :
    (lowBits s.eng.acc rest.length).toNat = bitsVal rest := by
  have hfits := hs.fits
  have hpos := List.length_pos_iff.mpr hgroup
  rw [List.length_append] at hfits
  rw [lowBits_toNat _ (by omega), hs.acc, bitsVal_append_mod]

/-- The last group: the held bits followed by zeros. -/
theorem Holds.zeroFilled (hs : Holds s bits) (k w : Nat) (hw : w ≤ 12) :
    (s.eng.acc <<< k).setWidth w = BitVec.ofNat w (bitsVal (bits ++ List.replicate k false)) := by
  refine BitVec.eq_of_toNat_eq ?_
  rw [BitVec.toNat_setWidth, BitVec.toNat_shiftLeft, Nat.shiftLeft_eq,
    Nat.mod_mod_of_dvd _ (pow_dvd_pow 2 hw), BitVec.toNat_ofNat, bitsVal_append,
    bitsVal_replicate_false, List.length_replicate, hs.acc, Nat.add_zero]

end Sys2Proof.Accumulator
end

section
/-! The stages of ENCODE against its functional form (41_encode.md R131 to R136): from the start of a
command on, the octets written are the symbols of the complete 5-bit groups of the bits taken, and the
accumulator holds the bits of the group that is not complete. -/

namespace Sys2Proof.EncoderStages

open Sys2Proof.Machine Sys2Proof.Claims Sys2Proof.StageCounts Sys2Proof.InvariantSteps
  Sys2Proof.BitGroups Sys2Proof.OutputStream Sys2Proof.EncodeForm Sys2Proof.Accumulator

/-- The bits of the input octets below index `n`. -/
def inputBits (s : State) (n : Nat) : List Bool := (s.memReadIn 0 n).flatMap bits8

theorem inputBits_succ (s : State) (n : Nat) :
    inputBits s (n + 1) = inputBits s n ++ bits8 (s.inOctet n) := by
  simp [inputBits, State.memReadIn, List.range_succ]

theorem inputBits_length (s : State) (n : Nat) : (inputBits s n).length = 8 * n := by
  rw [inputBits, flatMap_bits8_length, State.memReadIn_length]

/-- The grouper has come from `s` to `t`: of the bits taken, the complete groups are written as symbols
and the rest is held. -/
structure Grouped (s t : State) : Prop where
  frame : StageFrame s t
  groups : ∃ full rest, inputBits s t.eng.rd = full ++ rest ∧ 5 ∣ full.length ∧
    Appends s t (symbolsOf s.eng.h full) ∧ Holds t rest

namespace Grouped

variable {s t : State}

theorem ofCleared (hrd : s.eng.rd = 0) (hnb : s.eng.nb = 0) (hacc : s.eng.acc = 0) : Grouped s s where
  frame := .refl s
  groups := by
    refine ⟨[], [], by rw [hrd]; rfl, dvd_zero 5, ?_, hnb, by rw [hacc]; rfl, by decide⟩
    rw [symbolsOf_nil]
    exact .refl s

/-- Taking an octet appends its bits to the held ones. -/
theorem takeOctet (g : Grouped s t) (hnb : t.eng.nb ≤ 4) (hrd : t.eng.rd < 0x10000) :
    Grouped s t.takeOctet where
  frame := g.frame.trans t.takeOctet_frame
  groups := by
    obtain ⟨full, rest, hbits, hfull, happ, hold⟩ := g.groups
    have hlen : rest.length ≤ 4 := hold.nb ▸ hnb
    refine ⟨full, rest ++ bits8 (t.inOctet t.eng.rd), ?_, hfull, ?_, ?_, ?_, ?_⟩
    · change inputBits s (t.eng.rd + 1) = _
      rw [inputBits_succ, hbits, List.append_assoc, g.frame.inOctet hrd]
    · have htake : Appends t t.takeOctet [] := .ofEngine t _ rfl
      simpa only [List.append_nil] using happ.trans htake
    · rw [List.length_append, ← hold.nb]
      rfl
    · exact hold.push _ (bits8_length _) (bitsVal_bits8 _) (by omega)
    · rw [List.length_append, bits8_length]
      omega

/-- A turn of the loop makes a symbol of the five oldest held bits. -/
theorem emitGroup (g : Grouped s t) (hnb : 5 ≤ t.eng.nb) : Grouped s t.emitGroup where
  frame := g.frame.trans t.emitGroup_frame
  groups := by
    obtain ⟨full, held, hbits, hfull, happ, hold⟩ := g.groups
    obtain ⟨group, rest, rfl, hgroup⟩ : ∃ group rest, held = group ++ rest ∧ group.length = 5 :=
      ⟨held.take 5, held.drop 5, (List.take_append_drop 5 held).symm,
        List.length_take_of_le (hold.nb ▸ hnb)⟩
    have hlen : t.eng.nb - 5 = rest.length := by rw [hold.nb, List.length_append, hgroup]; omega
    have hemit : Appends t t.emitGroup [encLut s.eng.h (BitVec.ofNat 5 (bitsVal group))] := by
      rw [← hold.oldest 5, ← hlen, ← g.frame.h]
      exact .writeNext t _ _ rfl
    refine ⟨full ++ group, rest, ?_, ?_, ?_, hlen, ?_, ?_⟩
    · rw [List.append_assoc]
      exact hbits
    · rw [List.length_append, hgroup]
      exact dvd_add hfull dvd_rfl
    · rw [symbolsOf_append_group _ hfull hgroup]
      exact happ.trans hemit
    · rw [← hold.newest (List.ne_nil_of_length_pos (by omega)), ← hlen]
      rfl
    · exact (List.length_append ▸ hold.fits).trans' (Nat.le_add_left ..)

theorem groupLoop (g : Grouped s t) (fuel : Nat) : Grouped s (groupLoop fuel t) := by
  induction fuel generalizing t with
  | zero => exact g
  | succ k ih =>
    unfold Machine.groupLoop
    split
    next => exact g
    next hnb => exact ih (g.emitGroup (not_lt.mp hnb))

theorem grouperLoop (g : Grouped s t) (hnb : t.eng.nb ≤ 4) (fuel : Nat)
    (hrd : t.eng.rd + fuel ≤ 0x10000) : Grouped s (grouperLoop fuel t) := by
  induction fuel generalizing t with
  | zero => exact g
  | succ k ih =>
    obtain ⟨hrd', hnb', -⟩ := grouperStep_counts t
    exact ih ((g.takeOctet hnb (by omega)).groupLoop _) hnb' (by omega)

/-- The flush writes the last group, if there is one: all symbols of the zero-filled bits are out
(41_encode.md R132). -/
theorem grouperFlush (g : Grouped s t) (hnb : t.eng.nb ≤ 4) :
    Appends s t.grouperFlush (symbolsOf s.eng.h (encodeBits (s.memReadIn 0 t.eng.rd))) := by
  obtain ⟨full, rest, hbits, hfull, happ, hold⟩ := g.groups
  have hlen := congrArg List.length hbits
  rw [inputBits_length, List.length_append] at hlen
  obtain ⟨q, hq⟩ := hfull
  have hrest := hold.nb
  have henc : encodeBits (s.memReadIn 0 t.eng.rd) = (full ++ rest) ++
      List.replicate (5 * ceilDiv (8 * t.eng.rd) 5 - 8 * t.eng.rd) false := by
    rw [← hbits, encodeBits, State.memReadIn_length]
    rfl
  unfold State.grouperFlush
  split
  next hpos =>
    have hfill : 5 * ceilDiv (8 * t.eng.rd) 5 - 8 * t.eng.rd = 5 - t.eng.nb := by
      simp only [ceilDiv]
      omega
    have hlast : (rest ++ List.replicate (5 - t.eng.nb) false).length = 5 := by
      rw [List.length_append, List.length_replicate]
      omega
    rw [henc, hfill, List.append_assoc, symbolsOf_append_group _ ⟨q, hq⟩ hlast]
    refine happ.trans ?_
    rw [← hold.zeroFilled _ 5 (by decide), ← g.frame.h]
    exact .writeNext t _ _ rfl
  next hzero =>
    have hfill : 5 * ceilDiv (8 * t.eng.rd) 5 - 8 * t.eng.rd = 0 := by
      simp only [ceilDiv]
      omega
    have hnil : rest = [] := List.length_eq_zero_iff.mp (by omega)
    rw [henc, hfill, hnil, List.append_nil, List.replicate_zero, List.append_nil]
    exact happ

end Grouped

/-! ### Padding (41_encode.md R133) -/

theorem padLoop_appends (fuel : Nat) (s : State) (h : (-s.eng.symcnt).toNat ≤ fuel) :
    Appends s (padLoop fuel s) (List.replicate (-s.eng.symcnt).toNat padOctet) ∧
    (padLoop fuel s).eng.symcnt = 0 := by
  induction fuel generalizing s with
  | zero =>
    have h0 : s.eng.symcnt = 0 := by bv_omega
    refine ⟨?_, h0⟩
    rw [h0]
    exact .refl s
  | succ k ih =>
    unfold padLoop
    split
    next h0 =>
      refine ⟨?_, h0⟩
      rw [h0]
      exact .refl s
    next h0 =>
      have hcnt : (s.emit padOctet).eng.symcnt = s.eng.symcnt + 1 := rfl
      have hneg : (-s.eng.symcnt).toNat = (-(s.eng.symcnt + 1)).toNat + 1 := by bv_omega
      obtain ⟨happ, hzero⟩ := ih (s.emit padOctet) (by rw [hcnt]; omega)
      rw [hcnt] at happ
      refine ⟨?_, hzero⟩
      rw [hneg, List.replicate_succ]
      exact (Appends.writeNext s padOctet _ rfl).trans happ

theorem pad_appends (s : State) :
    Appends s s.pad (List.replicate (-s.eng.symcnt).toNat padOctet) ∧ s.pad.eng.symcnt = 0 :=
  padLoop_appends 8 s (by have := (-s.eng.symcnt).isLt; omega)

/-! ### The whole command -/

/-- From a cleared engine the stages write the functional form of the input (41_encode.md R135). -/
theorem encodeStages_appends {s : State} {h : Alphabet} {n : Nat} (hn : n ≤ 40960)
    (he : s.eng = Engine.started .encode h n) :
    Appends s s.encodeStages (encodeFn h s.commandInput) := by
  have hrd0 : s.eng.rd = 0 := by rw [he]; rfl
  have hwr0 : s.eng.wr = 0 := by rw [he]; rfl
  have hnb0 : s.eng.nb = 0 := by rw [he]; rfl
  have hacc0 : s.eng.acc = 0 := by rw [he]; rfl
  have hh : s.eng.h = h := by rw [he]; rfl
  have hn' : s.eng.n = n := by rw [he]; rfl
  have hstages : s.encodeStages = (grouperLoop n s).grouperFlush.pad := by
    rw [State.encodeStages, hn', hrd0, Nat.sub_zero]
  obtain ⟨hrd, hnb, -⟩ := grouperLoop_counts n s (by omega)
  have hgrouped := (Grouped.ofCleared hrd0 hnb0 hacc0).grouperLoop (by omega) n (by omega)
  have happ := (hgrouped.grouperFlush hnb).trans (pad_appends _).1
  rw [hrd, hrd0, Nat.zero_add, hh, ← hstages] at happ
  have hpad : (-(grouperLoop n s).grouperFlush.eng.symcnt).toNat = padCount n := by
    obtain ⟨-, -, htotal⟩ := encodeStages_counts he
    have hwr := happ.wr
    rw [htotal, hwr0, List.length_append, symbolsOf_length, encodeBits_length,
      State.memReadIn_length, List.length_replicate] at hwr
    simp only [padCount]
    omega
  rw [State.commandInput, hn', encodeFn_eq, State.memReadIn_length, ← hpad]
  exact happ

/-- A start of ENCODE and its engine transition (41_encode.md R136). -/
theorem encodedFrom_start {s : State} (h : Alphabet) (hn : s.inLen.toNat ≤ 40960) :
    EncodedFrom s (s.start .encode h).engineTurn h := by
  have hturn : (s.start .encode h).engineTurn =
      (s.start .encode h).encodeStages.complete .none 0 (s.start .encode h).encodeStages.eng.wr := rfl
  have hframe := (s.start .encode h).encodeStages_frame
  obtain ⟨-, hout, hothers⟩ := encodeStages_appends (s := s.start .encode h) hn rfl
  obtain ⟨-, -, hwr⟩ := encodeStages_counts (s := s.start .encode h) rfl
  have hlen : (s.start .encode h).engineTurn.outLen.toNat = 8 * ceilDiv s.inLen.toNat 5 := by
    rw [hturn, State.complete_outLen, if_pos rfl, hwr, BitVec.toNat_ofNat, Nat.mod_eq_of_lt]
    simp only [ceilDiv]
    omega
  refine ⟨⟨hframe.cfg, hframe.ie, hframe.inLen, hframe.resetAsserted, hframe.resp, hframe.port,
    hframe.epoch⟩, hframe.draws, ⟨rfl, rfl, rfl, rfl, hlen⟩, ?_, ?_⟩
  · rw [encodeFn_length, State.commandInput, State.memReadIn_length] at hout
    rw [hlen]
    exact hout
  · rw [← hwr]
    exact hothers

end Sys2Proof.EncoderStages

namespace Sys2Proof

open Machine Claims Dispatch StageCounts EncoderStages

/-- Settles O13: `encodeStages_appends` from index 0. -/
theorem encoderStagesAgreeWithEncodeFn : Obligations.EncoderStagesAgreeWithEncodeFn := by
  unfold Obligations.EncoderStagesAgreeWithEncodeFn
  intro s h n hn he
  obtain ⟨hwr, hout, hothers⟩ := encodeStages_appends hn he
  have hwr0 : s.eng.wr = 0 := by rw [he]; rfl
  rw [hwr0] at hwr hout hothers
  rw [Nat.zero_add] at hwr
  exact ⟨hwr, by rw [hwr]; exact hout, hothers⟩

/-- Settles O12: an idle block with a legal length starts the command, and the start's engine transition
is `encodedFrom_start`. -/
theorem encodeCommandsWriteEncodeFn : Obligations.EncodeCommandsWriteEncodeFn := by
  unfold Obligations.EncodeCommandsWriteEncodeFn
  intro s hcfg hb hl
  have hn : s.inLen.toNat ≤ 40960 := by
    simp only [Config.Params.wf, Bool.and_eq_true, decide_eq_true_eq] at hcfg
    omega
  have hencoded (h : Alphabet) : EncodedFrom s (s.dispatchCommand .encode h).engineTurn h := by
    rw [dispatchCommand_legal hb .encode h hl]
    exact encodedFrom_start h hn
  exact ⟨⟨_, exec_encodeStd s, hencoded .std⟩, ⟨_, exec_encodeHex s, hencoded .hex⟩⟩

/-- Settles O15: five held bits leave with each symbol and eight with each octet, so the bounds on the
held bits bound the octets written; the padding writes what is missing modulo 8. -/
theorem stagesKeepTheirCounts : Obligations.StagesKeepTheirCounts := by
  unfold Obligations.StagesKeepTheirCounts
  refine ⟨fun s hnb => ?_, fun s => ?_, fun s v hnb => ?_⟩
  · obtain ⟨hrd, hnb', hbits⟩ := grouperStep_counts s
    exact ⟨hnb', hrd, by omega⟩
  · obtain ⟨happ, hzero⟩ := pad_appends s
    have hwr := happ.wr
    rw [List.length_replicate] at hwr
    have hcnt := (-s.eng.symcnt).isLt
    exact ⟨hzero, by omega, by omega⟩
  · obtain ⟨-, hnb', hbits⟩ := unpack_counts s v
    have hle := hnb' hnb
    exact ⟨hle, by omega⟩

end Sys2Proof
end

section
/-! The UTF-8 checker against the table of well-formed sequences (42_decode.md R170): a state of the
checker stands for the octet ranges that its sequence still needs. -/

namespace Sys2Proof.Utf8Table

open Sys2Proof.Machine

/-! ### The checker as a recursion on the input -/

/-- The checker accepts the octets that follow when it stands in `q` and has not failed. -/
def acceptsFrom (q : U8State) (d : List Byte) : Bool := u8Accepts (d.foldl u8Step (q, false))

/-- The flag is sticky: after `fail()` nothing is accepted. -/
theorem not_u8Accepts_foldl_of_bad (q : U8State) (d : List Byte) :
    u8Accepts (d.foldl u8Step (q, true)) = false := by
  induction d generalizing q with
  | nil => simp [u8Accepts]
  | cons o d ih =>
    rw [List.foldl_cons]
    cases hq : u8Next q o with
    | some q' => simpa only [u8Step, hq] using ih q'
    | none => simpa only [u8Step, hq] using ih .acc

theorem acceptsFrom_nil (q : U8State) : acceptsFrom q [] = true ↔ q = .acc := by
  rw [acceptsFrom, List.foldl_nil, u8Accepts, Bool.not_false, Bool.and_true]
  exact decide_eq_true_iff

theorem acceptsFrom_cons (q : U8State) (o : Byte) (d : List Byte) :
    acceptsFrom q (o :: d) = true ↔ ∃ q', u8Next q o = some q' ∧ acceptsFrom q' d = true := by
  unfold acceptsFrom
  rw [List.foldl_cons]
  cases hq : u8Next q o with
  | some q' => simp [u8Step, hq]
  | none => simp [u8Step, hq, not_u8Accepts_foldl_of_bad]

/-! ### The ranges that a state still needs -/

/-- The ranges of the octets that complete the sequence begun: none between sequences. -/
def pending : U8State → List (Byte × Byte)
  | .acc => []
  | .c1 => [(0x80, 0xBF)]
  | .c2 => [(0x80, 0xBF), (0x80, 0xBF)]
  | .c3 => [(0x80, 0xBF), (0x80, 0xBF), (0x80, 0xBF)]
  | .e0 => [(0xA0, 0xBF), (0x80, 0xBF)]
  | .ed => [(0x80, 0x9F), (0x80, 0xBF)]
  | .f0 => [(0x90, 0xBF), (0x80, 0xBF), (0x80, 0xBF)]
  | .f4 => [(0x80, 0x8F), (0x80, 0xBF), (0x80, 0xBF)]

theorem pending_eq_nil_iff {q : U8State} : pending q = [] ↔ q = .acc := by
  cases q <;> simp [pending]

theorem fitsRow_nil (row : List (Byte × Byte)) : fitsRow row [] = true ↔ row = [] := by
  cases row <;> simp [fitsRow]

/-- Inside a sequence the next octet must lie in the first pending range, and the others stay pending. -/
theorem u8Next_of_ne_acc {q : U8State} (hq : q ≠ .acc) : ∃ r q', pending q = r :: pending q' ∧
    ∀ o, u8Next q o = if inRange r.1 r.2 o then some q' else none := by
  cases q with
  | acc => exact absurd rfl hq
  | c1 => exact ⟨_, .acc, rfl, fun _ => rfl⟩
  | c2 => exact ⟨_, .c1, rfl, fun _ => rfl⟩
  | c3 => exact ⟨_, .c2, rfl, fun _ => rfl⟩
  | e0 => exact ⟨_, .c1, rfl, fun _ => rfl⟩
  | ed => exact ⟨_, .c1, rfl, fun _ => rfl⟩
  | f0 => exact ⟨_, .c2, rfl, fun _ => rfl⟩
  | f4 => exact ⟨_, .c2, rfl, fun _ => rfl⟩

/-- The ranges that the rows with the lead octet `o` leave pending. -/
def tailsAfter (o : Byte) : List (List (Byte × Byte)) :=
  utf8Table.filterMap fun row => row.head?.bind fun r => if inRange r.1 r.2 o then some row.tail else none

/-- A lead octet lies in the first range of at most one row, and the checker's next state has the rest of
that row pending. -/
theorem tailsAfter_eq (o : Byte) : tailsAfter o = ((u8Next .acc o).map pending).toList := by
  revert o
  decide

theorem wellFormedSeq_cons (o : Byte) (t : List Byte) :
    wellFormedSeq (o :: t) = true ↔ ∃ q, u8Next .acc o = some q ∧ fitsRow (pending q) t = true := by
  have htails : wellFormedSeq (o :: t) = (tailsAfter o).any fun row => fitsRow row t := by
    rw [wellFormedSeq, tailsAfter, List.any_filterMap]
    congr 1
    funext row
    cases row with
    | nil => rfl
    | cons r row =>
      rw [fitsRow]
      cases hr : inRange r.1 r.2 o <;> simp [hr]
  rw [htails, tailsAfter_eq]
  cases u8Next .acc o <;> simp

/-! ### The octets that a state still accepts -/

/-- Octets that complete the sequence begun, then well-formed sequences. -/
def Completes (q : U8State) (d : List Byte) : Prop :=
  ∃ t rest, d = t ++ rest ∧ fitsRow (pending q) t = true ∧ IsUtf8 rest

theorem completes_nil (q : U8State) : Completes q [] ↔ q = .acc := by
  constructor
  · rintro ⟨t, rest, hd, hfit, -⟩
    obtain ⟨rfl, -⟩ := List.append_eq_nil_iff.mp hd.symm
    exact pending_eq_nil_iff.mp ((fitsRow_nil _).mp hfit)
  · rintro rfl
    exact ⟨[], [], rfl, rfl, [], rfl, fun _ hq => absurd hq List.not_mem_nil⟩

/-- Between sequences nothing is pending. -/
theorem completes_acc (d : List Byte) : Completes .acc d ↔ IsUtf8 d := by
  constructor
  · rintro ⟨t, rest, rfl, hfit, hrest⟩
    cases t with
    | nil => exact hrest
    | cons => cases hfit
  · exact fun hd => ⟨[], d, rfl, rfl, hd⟩

theorem isUtf8_cons (o : Byte) (d : List Byte) :
    IsUtf8 (o :: d) ↔ ∃ t rest, d = t ++ rest ∧ wellFormedSeq (o :: t) = true ∧ IsUtf8 rest := by
  constructor
  · rintro ⟨seqs, hd, hseqs⟩
    cases seqs with
    | nil => cases hd
    | cons q seqs =>
      obtain ⟨hq, htail⟩ := List.forall_mem_cons.mp hseqs
      cases q with
      | nil => cases hq
      | cons o' t =>
        obtain ⟨rfl, rfl⟩ := List.cons.inj hd
        exact ⟨t, seqs.flatten, rfl, hq, seqs, rfl, htail⟩
  · rintro ⟨t, rest, rfl, ht, seqs, rfl, hseqs⟩
    exact ⟨(o :: t) :: seqs, rfl, List.forall_mem_cons.mpr ⟨ht, hseqs⟩⟩

/-- `Completes` obeys the recursion of the checker. -/
theorem completes_cons (q : U8State) (o : Byte) (d : List Byte) :
    Completes q (o :: d) ↔ ∃ q', u8Next q o = some q' ∧ Completes q' d := by
  by_cases hq : q = .acc
  · rw [hq, completes_acc, isUtf8_cons]
    simp only [wellFormedSeq_cons, Completes]
    constructor
    · rintro ⟨t, rest, hd, ⟨q', hnext, hfit⟩, hrest⟩
      exact ⟨q', hnext, t, rest, hd, hfit, hrest⟩
    · rintro ⟨q', hnext, t, rest, hd, hfit, hrest⟩
      exact ⟨t, rest, hd, ⟨q', hnext, hfit⟩, hrest⟩
  · obtain ⟨r, q', hpending, hnext⟩ := u8Next_of_ne_acc hq
    simp only [hnext, Option.ite_none_right_eq_some, Option.some.injEq, Completes, hpending]
    constructor
    · rintro ⟨t, rest, hd, hfit, hrest⟩
      cases t with
      | nil => cases hfit
      | cons o' t =>
        obtain ⟨rfl, rfl⟩ := List.cons.inj hd
        obtain ⟨hr, hfit⟩ := Bool.and_eq_true_iff.mp hfit
        exact ⟨q', ⟨hr, rfl⟩, t, rest, rfl, hfit, hrest⟩
    · rintro ⟨_, ⟨hr, rfl⟩, t, rest, rfl, hfit, hrest⟩
      exact ⟨o :: t, rest, rfl, Bool.and_eq_true_iff.mpr ⟨hr, hfit⟩, hrest⟩

theorem acceptsFrom_iff_completes (q : U8State) (d : List Byte) :
    acceptsFrom q d = true ↔ Completes q d := by
  induction d generalizing q with
  | nil => rw [acceptsFrom_nil, completes_nil]
  | cons o d ih => simp only [acceptsFrom_cons, completes_cons, ih]

end Sys2Proof.Utf8Table

namespace Sys2Proof

open Machine Utf8Table

/-- Settles O30: from any state the checker accepts exactly the octets that complete the sequence begun
and go on with well-formed sequences; ACC has no sequence begun. -/
theorem utf8CheckerAcceptsExactlyTheTable : Obligations.Utf8CheckerAcceptsExactlyTheTable := by
  unfold Obligations.Utf8CheckerAcceptsExactlyTheTable
  intro d
  exact (acceptsFrom_iff_completes .acc d).trans (completes_acc d)

end Sys2Proof
end

section
/-! The bits of symbols and of octets (00_scope.md R9, 42_decode.md R162): the octets of a bit sequence
are those of its complete groups of eight, and the bits left over do not matter. -/

namespace Sys2Proof.OctetGroups

open Sys2Proof.Machine Sys2Proof.BitGroups Sys2Proof.EncodeForm

/-! ### Groups of any width -/

/-- Bits after the last complete group make no value. -/
theorem groupValues_append_rest {w : Nat} {full rest : List Bool} (hfull : w ∣ full.length)
    (hrest : rest.length < w) : groupValues w (full ++ rest) = groupValues w full := by
  obtain ⟨q, hq⟩ := hfull
  have hw : 0 < w := by omega
  have hcount : (full ++ rest).length / w = full.length / w := by
    rw [List.length_append, hq, Nat.mul_add_div hw, Nat.div_eq_of_lt hrest, Nat.add_zero,
      Nat.mul_div_cancel_left _ hw]
  rw [groupValues, groupValues, hcount, hq, Nat.mul_div_cancel_left _ hw]
  refine List.map_congr_left fun k hk => ?_
  rw [bitSlice_append_left]
  calc w * k + w = w * (k + 1) := (Nat.mul_succ w k).symm
    _ ≤ w * q := Nat.mul_le_mul_left w (List.mem_range.mp hk)
    _ = full.length := hq.symm

theorem length_flatMap_of_width {α : Type} {w : Nat} {f : α → List Bool} (hf : ∀ a, (f a).length = w)
    (l : List α) : (l.flatMap f).length = w * l.length := by
  simp [List.length_flatMap, hf, mul_comm]

/-- A sequence made of groups of one width has their values. -/
theorem groupValues_flatMap {α : Type} {w : Nat} (hw : 0 < w) {f : α → List Bool}
    (hf : ∀ a, (f a).length = w) (l : List α) :
    groupValues w (l.flatMap f) = l.map fun a => bitsVal (f a) := by
  induction l using List.reverseRecOn with
  | nil => exact groupValues_nil w
  | append_singleton l a ih =>
    have hfull : w ∣ (l.flatMap f).length := ⟨_, length_flatMap_of_width hf l⟩
    rw [List.flatMap_append, List.flatMap_singleton, groupValues_append_group hw hfull (hf a), ih,
      List.map_append, List.map_singleton]

/-! ### Symbols -/

@[simp] theorem bits5_length (v : BitVec 5) : (bits5 v).length = 5 := rfl

theorem bitsVal_bits5 (v : BitVec 5) : bitsVal (bits5 v) = v.toNat := by
  revert v
  decide

theorem flatMap_bits5_length (v : List (BitVec 5)) : (v.flatMap bits5).length = 5 * v.length :=
  length_flatMap_of_width bits5_length v

theorem bits5_ofNat_bitsVal {group : List Bool} (hgroup : group.length = 5) :
    bits5 (BitVec.ofNat 5 (bitsVal group)) = group := by
  match group, hgroup with
  | [a, b, c, d, e], _ =>
    revert a b c d e
    decide

/-- The symbols of complete 5-bit groups have the bits of the groups. -/
theorem flatMap_bits5_symbolIndices {bits : List Bool} {q : Nat} (hbits : bits.length = 5 * q) :
    (symbolIndices bits).flatMap bits5 = bits := by
  induction q generalizing bits with
  | zero =>
    obtain rfl := List.length_eq_zero_iff.mp hbits
    rfl
  | succ q ih =>
    have hfull : (bits.take (5 * q)).length = 5 * q := List.length_take_of_le (by omega)
    have hgroup : (bits.drop (5 * q)).length = 5 := by rw [List.length_drop]; omega
    have ih' := ih hfull
    unfold symbolIndices at ih' ⊢
    rw [← List.take_append_drop (5 * q) bits, groupValues_append_group (by decide) ⟨q, hfull⟩ hgroup,
      List.map_append, List.flatMap_append, ih', List.map_singleton, List.flatMap_singleton,
      bits5_ofNat_bitsVal hgroup]

/-! ### Octets -/

/-- The octets of a bit sequence, one for each complete group of eight. -/
def octetsOf (bits : List Bool) : List Byte := (groupValues 8 bits).map (BitVec.ofNat 8)

@[simp] theorem octetsOf_length (bits : List Bool) : (octetsOf bits).length = bits.length / 8 := by
  simp [octetsOf]

theorem octetsOf_append_rest {full rest : List Bool} (hfull : 8 ∣ full.length) (hrest : rest.length < 8) :
    octetsOf (full ++ rest) = octetsOf full := by
  rw [octetsOf, octetsOf, groupValues_append_rest hfull hrest]

theorem octetsOf_append_group {full group : List Bool} (hfull : 8 ∣ full.length)
    (hgroup : group.length = 8) :
    octetsOf (full ++ group) = octetsOf full ++ [BitVec.ofNat 8 (bitsVal group)] := by
  rw [octetsOf, octetsOf, groupValues_append_group (by decide) hfull hgroup, List.map_append,
    List.map_singleton]

theorem octetsOf_flatMap_bits8 (b : List Byte) : octetsOf (b.flatMap bits8) = b := by
  rw [octetsOf, groupValues_flatMap (by decide) bits8_length, List.map_map]
  simp only [Function.comp_def, bitsVal_bits8, BitVec.ofNat_toNat, BitVec.setWidth_eq, List.map_id']

/-- Only the bits of the complete groups matter (42_decode.md R173). -/
theorem octetsOf_take (bits : List Bool) :
    octetsOf (bits.take (8 * (bits.length / 8))) = octetsOf bits := by
  have hfull : (bits.take (8 * (bits.length / 8))).length = 8 * (bits.length / 8) :=
    List.length_take_of_le (Nat.mul_div_le _ _)
  have hrest : (bits.drop (8 * (bits.length / 8))).length < 8 := by rw [List.length_drop]; omega
  rw [← octetsOf_append_rest ⟨_, hfull⟩ hrest, List.take_append_drop]

theorem octetsOfSymbols_eq (v : List (BitVec 5)) : octetsOfSymbols v = octetsOf (v.flatMap bits5) := by
  simp only [octetsOfSymbols, octetsOf, groupValues, flatMap_bits5_length, List.map_map,
    Function.comp_def]

theorem octetsOfSymbols_length (v : List (BitVec 5)) : (octetsOfSymbols v).length = 5 * v.length / 8 := by
  rw [octetsOfSymbols_eq, octetsOf_length, flatMap_bits5_length]

/-- Regrouping the encoder's symbols by eight gives its input: the fill bits are too few for an octet
(42_decode.md R175). -/
theorem octetsOfSymbols_symbolIndices (b : List Byte) :
    octetsOfSymbols (symbolIndices (encodeBits b)) = b := by
  have hfull : 8 ∣ (b.flatMap bits8).length := ⟨_, flatMap_bits8_length b⟩
  rw [octetsOfSymbols_eq, flatMap_bits5_symbolIndices (encodeBits_length b), encodeBits,
    octetsOf_append_rest hfull, octetsOf_flatMap_bits8]
  rw [List.length_replicate, ceilDiv]
  omega

end Sys2Proof.OctetGroups
end

section
/-! The functional form of DECODE (42_decode.md R162): what each class of octet adds to the normalised
input, and the result when the normalised input is symbols followed by padding or by a first
non-member. -/

namespace Sys2Proof.DecodeForm

open Sys2Proof.Machine Sys2Proof.Claims Sys2Proof.AlphabetTables Sys2Proof.EncodeForm
  Sys2Proof.OctetGroups

variable {h : Alphabet} {c x : Byte}

/-! ### The classes (40_alphabet.md R118) -/

theorem classify_eq_ws_iff : classify h c = .ws ↔ isWS c = true := by
  unfold classify
  split
  next hws => exact iff_of_true rfl hws
  next hws =>
    refine iff_of_false ?_ hws
    split
    · exact nofun
    · cases decLut h (up c) <;> exact nofun

theorem classify_ne_ws_iff : classify h c ≠ .ws ↔ isWS c = false := by
  rw [ne_eq, classify_eq_ws_iff, Bool.not_eq_true]

theorem classify_eq_pad_iff : classify h c = .pad ↔ isWS c = false ∧ up c = padOctet := by
  unfold classify
  split
  next hws => simp [hws]
  next hws =>
    split
    next hpad => simp [hws, hpad]
    next hpad => cases decLut h (up c) <;> simp [hpad]

theorem classify_eq_bad_iff : classify h c = .bad x ↔
    isWS c = false ∧ up c ≠ padOctet ∧ decLut h (up c) = none ∧ up c = x := by
  unfold classify
  split
  next hws => simp [hws]
  next hws =>
    split
    next hpad => simp [hpad]
    next hpad => cases decLut h (up c) <;> simp [hws, hpad]

/-! ### The normalised input -/

theorem normalised_append (a b : List Byte) : normalised (a ++ b) = normalised a ++ normalised b := by
  rw [normalised, List.filter_append, List.map_append, normalised, normalised]

theorem normalised_cons_of_isWS (hc : isWS c = true) (cs : List Byte) :
    normalised (c :: cs) = normalised cs := by
  simp [normalised, hc]

theorem normalised_cons_of_not_isWS (hc : isWS c = false) (cs : List Byte) :
    normalised (c :: cs) = up c :: normalised cs := by
  simp [normalised, hc]

theorem normalised_cons_of_ws (hc : classify h c = .ws) (cs : List Byte) :
    normalised (c :: cs) = normalised cs :=
  normalised_cons_of_isWS (classify_eq_ws_iff.mp hc) cs

theorem normalised_cons_of_pad (hc : classify h c = .pad) (cs : List Byte) :
    normalised (c :: cs) = padOctet :: normalised cs := by
  obtain ⟨hws, hup⟩ := classify_eq_pad_iff.mp hc
  rw [normalised_cons_of_not_isWS hws, hup]

theorem normalised_cons_of_sym {v : BitVec 5} (hc : classify h c = .sym v) (cs : List Byte) :
    normalised (c :: cs) = encLut h v :: normalised cs := by
  have hws : isWS c = false := classify_ne_ws_iff.mp (by rw [hc]; nofun)
  rw [normalised_cons_of_not_isWS hws, decLut_eq_some_iff.mp (classify_eq_sym_iff.mp hc)]

theorem normalised_cons_of_member (hc : (decLut h c).isSome = true) (cs : List Byte) :
    normalised (c :: cs) = c :: normalised cs := by
  rw [normalised_cons_of_not_isWS (isWS_eq_false_of_member hc),
    up_of_not_lowercase (not_lowercase_of_member hc)]

theorem normalised_length_le (c : List Byte) : (normalised c).length ≤ c.length := by
  rw [normalised, List.length_map]
  exact List.length_filter_le ..

theorem normalised_replicate_padOctet (k : Nat) :
    normalised (List.replicate k padOctet) = List.replicate k padOctet := by
  induction k with
  | zero => rfl
  | succ k ih =>
    rw [List.replicate_succ, normalised_cons_of_not_isWS (by decide), ih]
    rfl

theorem normalised_map_encLut (v : List (BitVec 5)) :
    normalised (v.map (encLut h)) = v.map (encLut h) := by
  induction v with
  | nil => rfl
  | cons a v ih => rw [List.map_cons, normalised_cons_of_member (isSome_decLut_encLut h a), ih]

/-- Whitespace and symbols normalise to symbols. -/
theorem normalised_of_wsOrSymbol {c : List Byte} (hc : ∀ x ∈ c, IsWsOrSymbol h x) :
    ∃ v : List (BitVec 5), normalised c = v.map (encLut h) := by
  induction c with
  | nil => exact ⟨[], rfl⟩
  | cons x c ih =>
    obtain ⟨hx, hc⟩ := List.forall_mem_cons.mp hc
    obtain ⟨v, hv⟩ := ih hc
    rcases hx with hx | ⟨a, hx⟩
    · exact ⟨v, by rw [normalised_cons_of_ws hx, hv]⟩
    · exact ⟨a :: v, by rw [normalised_cons_of_sym hx, hv, List.map_cons]⟩

/-- Whitespace and `=` normalise to `=`. -/
theorem normalised_of_wsOrPad {c : List Byte} (hc : ∀ x ∈ c, classify h x = .ws ∨ classify h x = .pad) :
    ∃ k, normalised c = List.replicate k padOctet := by
  induction c with
  | nil => exact ⟨0, rfl⟩
  | cons x c ih =>
    obtain ⟨hx, hc⟩ := List.forall_mem_cons.mp hc
    obtain ⟨k, hk⟩ := ih hc
    rcases hx with hx | hx
    · exact ⟨k, by rw [normalised_cons_of_ws hx, hk]⟩
    · exact ⟨k + 1, by rw [normalised_cons_of_pad hx, hk, List.replicate_succ]⟩

/-! ### Trailing padding (42_decode.md R164) -/

theorem dropPadding_length_le (t : List Byte) : (dropPadding t).length ≤ t.length := by
  rw [dropPadding, List.length_reverse, ← List.length_reverse (as := t)]
  exact (List.dropWhile_sublist _).length_le

theorem dropPadding_replicate (k : Nat) : dropPadding (List.replicate k padOctet) = [] := by
  refine List.rdropWhile_eq_nil_iff.mpr fun x hx => ?_
  rw [List.eq_of_mem_replicate hx, beq_self_eq_true]

/-- Nothing up to an octet other than `=` is trailing padding. -/
theorem dropPadding_append_cons (a : List Byte) {y : Byte} (hy : y ≠ padOctet) (b : List Byte) :
    dropPadding (a ++ y :: b) = a ++ y :: dropPadding b := by
  unfold dropPadding
  rw [List.reverse_append, List.reverse_cons, List.append_assoc, List.dropWhile_append]
  split
  next hempty =>
    rw [List.isEmpty_iff.mp hempty]
    simp [hy]
  next => simp

theorem dropPadding_symbols_padding (v : List (BitVec 5)) (k : Nat) :
    dropPadding (v.map (encLut h) ++ List.replicate k padOctet) = v.map (encLut h) := by
  induction v using List.reverseRecOn with
  | nil => exact dropPadding_replicate k
  | append_singleton v a =>
    rw [List.map_append, List.map_singleton, List.append_assoc, List.singleton_append,
      dropPadding_append_cons _ (ne_padOctet_of_member (isSome_decLut_encLut h a)), dropPadding_replicate]

/-! ### The result -/

theorem decodeFn_congr {c c' : List Byte} (hc : normalised c = normalised c') (h : Alphabet) :
    decodeFn h c = decodeFn h c' := by
  rw [decodeFn, decodeFn, hc]

theorem find?_nonmember_symbols (v : List (BitVec 5)) :
    (v.map (encLut h)).find? (fun x => (decLut h x).isNone) = none := by
  simp

theorem filterMap_decLut_symbols (v : List (BitVec 5)) :
    (v.map (encLut h)).filterMap (decLut h) = v := by
  simp [List.filterMap_map]

/-- Symbols followed by padding: the verdict is that of the UTF-8 check. -/
theorem decodeFn_of_symbols {c : List Byte} {v : List (BitVec 5)} {k : Nat}
    (hc : normalised c = v.map (encLut h) ++ List.replicate k padOctet) :
    decodeFn h c = if utf8Valid (octetsOfSymbols v) then .ok (octetsOfSymbols v) else .invalidUtf8 := by
  simp only [decodeFn, hc, dropPadding_symbols_padding, find?_nonmember_symbols,
    filterMap_decLut_symbols]

/-- Symbols, then `=` or nothing, then an octet other than `=`: the first of what follows the symbols is
reported (42_decode.md R165 to R167). -/
theorem decodeFn_of_nonmember {c after : List Byte} {v : List (BitVec 5)} {k : Nat}
    (hc : normalised c = v.map (encLut h) ++ (List.replicate k padOctet ++ x :: after))
    (hx : x ≠ padOctet) (hnone : k = 0 → decLut h x = none) :
    decodeFn h c = .invalidCharacter (if k = 0 then x else padOctet) := by
  have hdrop : dropPadding (normalised c) =
      v.map (encLut h) ++ (List.replicate k padOctet ++ x :: dropPadding after) := by
    rw [hc, ← List.append_assoc, dropPadding_append_cons _ hx, List.append_assoc]
  have hfind : (List.replicate k padOctet ++ x :: dropPadding after).find?
      (fun y => (decLut h y).isNone) = some (if k = 0 then x else padOctet) := by
    cases k with
    | zero => simp [hnone rfl]
    | succ k => simp [List.replicate_succ]
  simp only [decodeFn, hdrop, List.find?_append, find?_nonmember_symbols, Option.none_or, hfind]

theorem exists_symbols_of_members {t : List Byte} (ht : ∀ x ∈ t, (decLut h x).isSome = true) :
    ∃ v : List (BitVec 5), t = v.map (encLut h) := by
  have hrange : t ∈ Set.range (List.map (encLut h)) := by
    rw [Set.range_list_map]
    intro x hx
    obtain ⟨a, ha⟩ := Option.isSome_iff_exists.mp (ht x hx)
    exact ⟨a, encLut_of_decLut ha⟩
  obtain ⟨v, hv⟩ := hrange
  exact ⟨v, hv.symm⟩

/-- A successful DECODE accepted symbols only, and its output is their octets. -/
theorem symbols_of_decodeFn_eq_ok {c d : List Byte} (hd : decodeFn h c = .ok d) :
    ∃ v : List (BitVec 5), dropPadding (normalised c) = v.map (encLut h) ∧ d = octetsOfSymbols v := by
  unfold decodeFn at hd
  simp only at hd
  split at hd
  next => cases hd
  next hfind =>
    obtain ⟨v, hv⟩ := exists_symbols_of_members (h := h) (t := dropPadding (normalised c))
      fun x hx => Option.isSome_iff_ne_none.mpr (by simpa using List.find?_eq_none.mp hfind x hx)
    rw [hv, filterMap_decLut_symbols] at hd
    split at hd
    next => exact ⟨v, hv, (DecodeResult.ok.inj hd).symm⟩
    next => cases hd

end Sys2Proof.DecodeForm

namespace Sys2Proof

open Machine Claims AlphabetTables EncodeForm OctetGroups DecodeForm

/-- Settles O23: the encoder's output is symbols followed by padding, and regrouping its symbols gives
the input. -/
theorem decodeOfEncodeRoundTrips : Obligations.DecodeOfEncodeRoundTrips := by
  unfold Obligations.DecodeOfEncodeRoundTrips
  intro h b
  have hsymbols : normalised (encodeFn h b) = (symbolIndices (encodeBits b)).map (encLut h) ++
      List.replicate (padCount b.length) padOctet := by
    rw [encodeFn_eq, normalised_append, symbolsOf, normalised_map_encLut, normalised_replicate_padOctet]
  rw [decodeFn_of_symbols hsymbols, octetsOfSymbols_symbolIndices]

/-- Settles O24: members normalise to themselves, so the input is symbols followed by padding. -/
theorem alphabetClosureOfDecode : Obligations.AlphabetClosureOfDecode := by
  unfold Obligations.AlphabetClosureOfDecode
  intro h c k hc
  obtain ⟨v, rfl⟩ := exists_symbols_of_members hc
  have hsymbols : normalised (v.map (encLut h) ++ List.replicate k padOctet) =
      v.map (encLut h) ++ List.replicate k padOctet := by
    rw [normalised_append, normalised_map_encLut, normalised_replicate_padOctet]
  rw [decodeFn_of_symbols hsymbols]
  split
  next => exact .inl ⟨_, rfl⟩
  next => exact .inr rfl

/-- Settles O25: the result depends on the normalised input alone. -/
theorem caseAndWhitespaceDoNotMatter : Obligations.CaseAndWhitespaceDoNotMatter := by
  unfold Obligations.CaseAndWhitespaceDoNotMatter
  refine ⟨fun h c1 c2 x hlo hhi => decodeFn_congr ?_ h, fun h c1 c2 w hw => decodeFn_congr ?_ h⟩
  · have hlower : isWS x = false := isWS_eq_false_of_space_lt (by bv_omega)
    have hupper : isWS (x - 0x20) = false := isWS_eq_false_of_space_lt (by bv_omega)
    rw [normalised_append, normalised_append, normalised_cons_of_not_isWS hlower,
      normalised_cons_of_not_isWS hupper, up_of_lowercase ⟨hlo, hhi⟩,
      up_of_not_lowercase (c := x - 0x20) (by bv_omega)]
  · rw [normalised_append, normalised_append, normalised_cons_of_isWS hw]

/-- Settles O26: the output is the octets of the symbols accepted; the table is arithmetic on their
number. -/
theorem decodeOutputLength : Obligations.DecodeOutputLength := by
  unfold Obligations.DecodeOutputLength
  intro h c d hd
  obtain ⟨v, hv, rfl⟩ := symbols_of_decodeFn_eq_ok hd
  have hcount : (dropPadding (normalised c)).length = v.length := by rw [hv, List.length_map]
  have hle : v.length ≤ c.length :=
    hcount ▸ (dropPadding_length_le _).trans (normalised_length_le c)
  rw [octetsOfSymbols_length]
  refine ⟨v.length, hcount.symm, hle, rfl, by omega, by omega, fun q r hk hr => ?_⟩
  rw [hk]
  interval_cases r <;> simp only [List.getD_cons_zero, List.getD_cons_succ] <;> omega

/-- Settles O28: a BAD octet after symbols is the first non-member. -/
theorem firstNonMemberIsReported : Obligations.FirstNonMemberIsReported := by
  unfold Obligations.FirstNonMemberIsReported
  intro h before after c x hbefore hc
  obtain ⟨hws, hpad, hnone, rfl⟩ := classify_eq_bad_iff.mp hc
  obtain ⟨v, hv⟩ := normalised_of_wsOrSymbol hbefore
  have hinput : normalised (before ++ c :: after) =
      v.map (encLut h) ++ (List.replicate 0 padOctet ++ up c :: normalised after) := by
    rw [normalised_append, hv, normalised_cons_of_not_isWS hws]
    rfl
  exact ⟨rfl, decodeFn_of_nonmember hinput hpad fun _ => hnone⟩

/-- Settles O29: the octets are those of the complete groups, which the leading bits make. -/
theorem discardedBitsDoNotMatter : Obligations.DiscardedBitsDoNotMatter := by
  unfold Obligations.DiscardedBitsDoNotMatter
  refine ⟨fun v w _ htake => ?_, by decide, by decide⟩
  rw [octetsOfSymbols_eq, octetsOfSymbols_eq, ← octetsOf_take (v.flatMap bits5),
    ← octetsOf_take (w.flatMap bits5), flatMap_bits5_length, flatMap_bits5_length, htake]

end Sys2Proof
end

section
/-! The stages of DECODE against its functional form (42_decode.md R163 to R174): after every octet read
without a raise, the normalised input is symbols followed by `=`, the octets of the complete groups of
the symbols' bits are written and checked, and the accumulator holds the bits left over. -/

namespace Sys2Proof.DecoderStages

open Sys2Proof.Machine Sys2Proof.Claims Sys2Proof.StageCounts Sys2Proof.InvariantSteps
  Sys2Proof.AlphabetTables Sys2Proof.OutputStream Sys2Proof.Accumulator Sys2Proof.OctetGroups
  Sys2Proof.DecodeForm

/-! ### One octet, by its class (42_decode.md R163 to R166) -/

section Octet

variable {s : State}

theorem decodeOctet_of_ws (hc : classify s.eng.h (s.inOctet s.eng.rd) = .ws) :
    s.decodeOctet = .ok s.nextOctet := by
  simp only [State.decodeOctet, hc]

theorem decodeOctet_of_pad (hc : classify s.eng.h (s.inOctet s.eng.rd) = .pad) :
    s.decodeOctet = .ok s.nextOctet.seePad := by
  simp only [State.decodeOctet, hc]

theorem decodeOctet_of_sym {v : BitVec 5} (hp : s.eng.padSeen = false)
    (hc : classify s.eng.h (s.inOctet s.eng.rd) = .sym v) :
    s.decodeOctet = .ok (s.nextOctet.unpack v) := by
  have hp' : s.nextOctet.eng.padSeen = false := hp
  simp only [State.decodeOctet, hc, hp', Bool.false_eq_true, if_false]

theorem decodeOctet_of_bad {x : Byte} (hp : s.eng.padSeen = false)
    (hc : classify s.eng.h (s.inOctet s.eng.rd) = .bad x) :
    s.decodeOctet = .error ⟨.invalidChar, x, s.nextOctet⟩ := by
  have hp' : s.nextOctet.eng.padSeen = false := hp
  simp only [State.decodeOctet, hc, hp', Bool.false_eq_true, if_false]

theorem decodeOctet_of_misplaced (hp : s.eng.padSeen = true)
    (hws : classify s.eng.h (s.inOctet s.eng.rd) ≠ .ws)
    (hpad : classify s.eng.h (s.inOctet s.eng.rd) ≠ .pad) :
    s.decodeOctet = .error ⟨.invalidChar, padOctet, s.nextOctet⟩ := by
  have hp' : s.nextOctet.eng.padSeen = true := hp
  unfold State.decodeOctet
  cases hc : classify s.eng.h (s.inOctet s.eng.rd) with
  | ws => exact absurd hc hws
  | pad => exact absurd hc hpad
  | sym v => simp only [hp', if_true]
  | bad x => simp only [hp', if_true]

end Octet

theorem nextOctet_frame (s : State) : StageFrame s s.nextOctet := .ofEngine s _ rfl rfl rfl

theorem unpack_padSeen (s : State) (v : BitVec 5) : (s.unpack v).eng.padSeen = s.eng.padSeen := by
  unfold State.unpack
  simp only
  split <;> rfl

/-! ### The bit-unpacker (42_decode.md R168, R169) -/

/-- From `s` to `t` the unpacker took these bits: the octets of complete groups are written and checked,
the other bits are held. -/
def Unpacked (s t : State) (bits : List Bool) : Prop :=
  ∃ full rest, bits = full ++ rest ∧ 8 ∣ full.length ∧ Appends s t (octetsOf full) ∧ Holds t rest ∧
    t.eng.checker = u8Run (octetsOf full)

theorem u8Run_concat (d : List Byte) (o : Byte) : u8Run (d ++ [o]) = u8Step (u8Run d) o := by
  rw [u8Run, List.foldl_append, List.foldl_cons, List.foldl_nil, u8Run]

namespace Unpacked

variable {s t : State} {bits : List Bool}

theorem ofCleared (hnb : s.eng.nb = 0) (hacc : s.eng.acc = 0) (hu8 : s.eng.checker = (.acc, false)) :
    Unpacked s s [] :=
  ⟨[], [], rfl, dvd_zero 8, .refl s, ⟨hnb, by rw [hacc]; rfl, by decide⟩, hu8⟩

/-- A change of engine elements that the unpacker does not use. -/
theorem setEngine (u : Unpacked s t bits) (e : Engine) (hwr : e.wr = t.eng.wr) (hnb : e.nb = t.eng.nb)
    (hacc : e.acc = t.eng.acc) (hu8 : e.checker = t.eng.checker) :
    Unpacked s { t with eng := e } bits := by
  obtain ⟨full, rest, hbits, hfull, happ, hold, hcheck⟩ := u
  have hsame : Appends t { t with eng := e } [] := .ofEngine t e hwr
  exact ⟨full, rest, hbits, hfull, by simpa only [List.append_nil] using happ.trans hsame,
    ⟨hnb.trans hold.nb, hacc ▸ hold.acc, hold.fits⟩, hu8.trans hcheck⟩

theorem nextOctet (u : Unpacked s t bits) : Unpacked s t.nextOctet bits := u.setEngine _ rfl rfl rfl rfl

theorem seePad (u : Unpacked s t bits) : Unpacked s t.seePad bits := u.setEngine _ rfl rfl rfl rfl

theorem pushSymbol (u : Unpacked s t bits) (hnb : t.eng.nb ≤ 7) (v : BitVec 5) :
    Unpacked s (t.pushSymbol v) (bits ++ bits5 v) := by
  obtain ⟨full, rest, rfl, hfull, happ, hold, hcheck⟩ := u
  have hlen : rest.length ≤ 7 := hold.nb ▸ hnb
  have hsame : Appends t (t.pushSymbol v) [] := .ofEngine t _ rfl
  refine ⟨full, rest ++ bits5 v, List.append_assoc .., hfull,
    by simpa only [List.append_nil] using happ.trans hsame, ⟨?_, ?_, ?_⟩, hcheck⟩
  · rw [List.length_append, ← hold.nb]
    rfl
  · exact hold.push v (bits5_length v) (bitsVal_bits5 v) (by omega)
  · rw [List.length_append, bits5_length]
    omega

theorem popOctet (u : Unpacked s t bits) (hnb : 8 ≤ t.eng.nb) : Unpacked s t.popOctet bits := by
  obtain ⟨full, held, rfl, hfull, happ, hold, hcheck⟩ := u
  obtain ⟨group, rest, rfl, hgroup⟩ : ∃ group rest, held = group ++ rest ∧ group.length = 8 :=
    ⟨held.take 8, held.drop 8, (List.take_append_drop 8 held).symm,
      List.length_take_of_le (hold.nb ▸ hnb)⟩
  have hlen : t.eng.nb - 8 = rest.length := by rw [hold.nb, List.length_append, hgroup]; omega
  have hoctet : (t.eng.acc >>> (t.eng.nb - 8)).setWidth 8 = BitVec.ofNat 8 (bitsVal group) := by
    rw [hlen, hold.oldest 8]
  refine ⟨full ++ group, rest, (List.append_assoc ..).symm, ?_, ?_, ⟨hlen, ?_, ?_⟩, ?_⟩
  · rw [List.length_append, hgroup]
    exact dvd_add hfull dvd_rfl
  · rw [octetsOf_append_group hfull hgroup, ← hoctet]
    exact happ.trans (.writeNext t _ _ rfl)
  · rw [← hold.newest (List.ne_nil_of_length_pos (by omega)), ← hlen]
    rfl
  · exact (List.length_append ▸ hold.fits).trans' (Nat.le_add_left ..)
  · rw [octetsOf_append_group hfull hgroup, u8Run_concat, ← hcheck, ← hoctet]
    rfl

theorem unpack (u : Unpacked s t bits) (hnb : t.eng.nb ≤ 7) (v : BitVec 5) :
    Unpacked s (t.unpack v) (bits ++ bits5 v) := by
  have hpush := u.pushSymbol hnb v
  unfold State.unpack
  simp only
  split
  next h8 => exact hpush.popOctet h8
  next => exact hpush

/-- With fewer than eight bits held, the octets of all bits are written and checked. -/
theorem octets (u : Unpacked s t bits) (hnb : t.eng.nb ≤ 7) :
    Appends s t (octetsOf bits) ∧ t.eng.checker = u8Run (octetsOf bits) := by
  obtain ⟨full, rest, rfl, hfull, happ, hold, hcheck⟩ := u
  have hrest := hold.nb
  rw [octetsOf_append_rest hfull (by omega)]
  exact ⟨happ, hcheck⟩

end Unpacked

/-! ### The loop (42_decode.md R172) -/

theorem memReadIn_add (s : State) (i m n : Nat) :
    s.memReadIn i (m + n) = s.memReadIn i m ++ s.memReadIn (i + m) n := by
  simp only [State.memReadIn, List.range_add, List.map_append, List.map_map, Function.comp_def,
    Nat.add_assoc]

/-- The decoder has come from `s` to `t` without a raise: the octets read are the symbols `v`, then `k`
times `=`, with whitespace anywhere. -/
structure Accepted (s t : State) (v : List (BitVec 5)) (k : Nat) : Prop where
  frame : StageFrame s t
  input : normalised (s.memReadIn 0 t.eng.rd) = v.map (encLut s.eng.h) ++ List.replicate k padOctet
  padSeen : t.eng.padSeen = decide (0 < k)
  nb : t.eng.nb ≤ 7
  bits : Unpacked s t (v.flatMap bits5)

/-- How the stages of DECODE end when they report a result: with the output written, or with the error
raised over some output. -/
def EndsWith (s : State) (e : Except Raised State) : DecodeResult → Prop
  | .ok d => ∃ t, e = .ok t ∧ Appends s t d
  | .invalidCharacter x => ∃ t out, e = .error ⟨.invalidChar, x, t⟩ ∧ Appends s t out
  | .invalidUtf8 => ∃ t out, e = .error ⟨.invalidUtf8, 0, t⟩ ∧ Appends s t out

/-- The next octet raises the error that any input beginning with the octets up to it reports. -/
def Raises (s t : State) : Prop :=
  ∃ x, (∀ after, decodeFn s.eng.h (s.memReadIn 0 (t.eng.rd + 1) ++ after) = .invalidCharacter x) ∧
    EndsWith s t.decodeOctet (.invalidCharacter x)

namespace Accepted

variable {s t : State} {v : List (BitVec 5)} {k : Nat}

theorem ofCleared (hrd : s.eng.rd = 0) (hnb : s.eng.nb = 0) (hacc : s.eng.acc = 0)
    (hpad : s.eng.padSeen = false) (hu8 : s.eng.checker = (.acc, false)) : Accepted s s [] 0 where
  frame := .refl s
  input := by rw [hrd]; rfl
  padSeen := hpad
  nb := by rw [hnb]; exact Nat.zero_le 7
  bits := .ofCleared hnb hacc hu8

theorem no_padding (a : Accepted s t v k) (hp : t.eng.padSeen = false) : k = 0 :=
  Nat.eq_zero_of_not_pos (of_decide_eq_false (a.padSeen.symm.trans hp))

section Next

variable (a : Accepted s t v k) (hrd : t.eng.rd < 0x10000)
include a hrd

/-- The input with one more octet read and more to follow. -/
theorem input_next (after : List Byte) :
    normalised (s.memReadIn 0 (t.eng.rd + 1) ++ after) =
      v.map (encLut s.eng.h) ++
        (List.replicate k padOctet ++ normalised (t.inOctet t.eng.rd :: after)) := by
  have hread : s.memReadIn 0 (t.eng.rd + 1) = s.memReadIn 0 t.eng.rd ++ [t.inOctet t.eng.rd] := by
    rw [memReadIn_add, a.frame.inOctet hrd]
    simp [State.memReadIn]
  rw [hread, List.append_assoc, List.singleton_append, normalised_append, a.input, List.append_assoc]

theorem input_next_end :
    normalised (s.memReadIn 0 (t.eng.rd + 1)) =
      v.map (encLut s.eng.h) ++ (List.replicate k padOctet ++ normalised [t.inOctet t.eng.rd]) := by
  rw [← a.input_next hrd [], List.append_nil]

theorem ws (hc : classify t.eng.h (t.inOctet t.eng.rd) = .ws) : Accepted s t.nextOctet v k where
  frame := a.frame.trans (nextOctet_frame t)
  input := by
    change normalised (s.memReadIn 0 (t.eng.rd + 1)) = _
    rw [a.input_next_end hrd, normalised_cons_of_ws hc]
    simp [normalised]
  padSeen := a.padSeen
  nb := a.nb
  bits := a.bits.nextOctet

theorem pad (hc : classify t.eng.h (t.inOctet t.eng.rd) = .pad) :
    Accepted s t.nextOctet.seePad v (k + 1) where
  frame := (a.frame.trans (nextOctet_frame t)).trans (.ofEngine _ _ rfl rfl rfl)
  input := by
    change normalised (s.memReadIn 0 (t.eng.rd + 1)) = _
    rw [a.input_next_end hrd, normalised_cons_of_pad hc, List.replicate_succ']
    rfl
  padSeen := by simp
  nb := a.nb
  bits := a.bits.nextOctet.seePad

theorem sym {w : BitVec 5} (hk : k = 0) (hc : classify t.eng.h (t.inOctet t.eng.rd) = .sym w) :
    Accepted s (t.nextOctet.unpack w) (v ++ [w]) 0 where
  frame := (a.frame.trans (nextOctet_frame t)).trans (State.unpack_frame _ w)
  input := by
    obtain ⟨hrd', -, -⟩ := unpack_counts t.nextOctet w
    change (t.nextOctet.unpack w).eng.rd = t.eng.rd + 1 at hrd'
    rw [hrd', a.input_next_end hrd, normalised_cons_of_sym hc, hk, a.frame.h, List.map_append,
      List.append_assoc]
    rfl
  padSeen := by
    rw [unpack_padSeen]
    exact a.padSeen.trans (by rw [hk])
  nb := (unpack_counts t.nextOctet w).2.1 a.nb
  bits := by
    rw [List.flatMap_append, List.flatMap_singleton]
    exact a.bits.nextOctet.unpack a.nb w

/-- A SYM or BAD octet after an `=`. -/
theorem misplaced (hp : t.eng.padSeen = true) (hws : classify t.eng.h (t.inOctet t.eng.rd) ≠ .ws)
    (hpad : classify t.eng.h (t.inOctet t.eng.rd) ≠ .pad) : Raises s t := by
  have hk : k ≠ 0 := (of_decide_eq_true (a.padSeen.symm.trans hp)).ne'
  have hws' := classify_ne_ws_iff.mp hws
  have hup : up (t.inOctet t.eng.rd) ≠ padOctet := fun h => hpad (classify_eq_pad_iff.mpr ⟨hws', h⟩)
  refine ⟨padOctet, fun after => ?_, t.nextOctet, _, decodeOctet_of_misplaced hp hws hpad,
    (a.bits.nextOctet.octets a.nb).1⟩
  have hinput := a.input_next hrd after
  rw [normalised_cons_of_not_isWS hws'] at hinput
  rw [decodeFn_of_nonmember hinput hup fun h => absurd h hk, if_neg hk]

/-- A BAD octet before any `=`. -/
theorem bad {x : Byte} (hp : t.eng.padSeen = false)
    (hc : classify t.eng.h (t.inOctet t.eng.rd) = .bad x) : Raises s t := by
  have hk := a.no_padding hp
  obtain ⟨hws, hpad, hnone, rfl⟩ := classify_eq_bad_iff.mp hc
  refine ⟨_, fun after => ?_, t.nextOctet, _, decodeOctet_of_bad hp hc,
    (a.bits.nextOctet.octets a.nb).1⟩
  have hinput := a.input_next hrd after
  rw [normalised_cons_of_not_isWS hws] at hinput
  rw [decodeFn_of_nonmember hinput hpad fun _ => a.frame.h ▸ hnone, if_pos hk]

theorem decodeOctet : (∃ u v' k', t.decodeOctet = .ok u ∧ Accepted s u v' k') ∨ Raises s t := by
  cases hc : classify t.eng.h (t.inOctet t.eng.rd) with
  | ws => exact .inl ⟨_, _, _, decodeOctet_of_ws hc, a.ws hrd hc⟩
  | pad => exact .inl ⟨_, _, _, decodeOctet_of_pad hc, a.pad hrd hc⟩
  | sym w =>
    cases hp : t.eng.padSeen with
    | false => exact .inl ⟨_, _, _, decodeOctet_of_sym hp hc, a.sym hrd (a.no_padding hp) hc⟩
    | true => exact .inr (a.misplaced hrd hp (by rw [hc]; nofun) (by rw [hc]; nofun))
  | bad x =>
    cases hp : t.eng.padSeen with
    | false => exact .inr (a.bad hrd hp hc)
    | true => exact .inr (a.misplaced hrd hp (by rw [hc]; nofun) (by rw [hc]; nofun))

end Next

theorem decodeLoop (a : Accepted s t v k) (fuel : Nat) (hrd : t.eng.rd + fuel ≤ 0x10000) :
    (∃ u v' k', decodeLoop fuel t = .ok u ∧ u.eng.rd = t.eng.rd + fuel ∧ Accepted s u v' k') ∨
    (∃ x, decodeFn s.eng.h (s.memReadIn 0 (t.eng.rd + fuel)) = .invalidCharacter x ∧
      EndsWith s (decodeLoop fuel t) (.invalidCharacter x)) := by
  induction fuel generalizing t v k with
  | zero => exact .inl ⟨t, v, k, rfl, rfl, a⟩
  | succ n ih =>
    unfold Machine.decodeLoop
    rcases a.decodeOctet (by omega) with ⟨u, v', k', hu, a'⟩ | ⟨x, hx, r, out, he, happ⟩
    · have hrd' := decodeOctet_rd hu
      have hn : t.eng.rd + (n + 1) = u.eng.rd + n := by omega
      rw [hu, hn]
      exact ih a' (by omega)
    · rw [he]
      refine .inr ⟨x, ?_, r, out, rfl, happ⟩
      rw [Nat.add_comm n 1, ← Nat.add_assoc, memReadIn_add]
      exact hx _

end Accepted

/-! ### The whole command -/

/-- From a cleared engine the stages end with the result of the functional form (42_decode.md R174). -/
theorem decodeStages_endsWith {s : State} {h : Alphabet} {n : Nat} (hn : n ≤ 40960)
    (he : s.eng = Engine.started .decode h n) :
    EndsWith s s.decodeStages (decodeFn h s.commandInput) := by
  have hrd : s.eng.rd = 0 := by rw [he]; rfl
  have hh : s.eng.h = h := by rw [he]; rfl
  have hn' : s.eng.n = n := by rw [he]; rfl
  have hcleared : Accepted s s [] 0 := .ofCleared hrd (by rw [he]; rfl) (by rw [he]; rfl)
    (by rw [he]; rfl) (by rw [he]; rfl)
  unfold State.decodeStages
  rw [State.commandInput, hn', hrd, Nat.sub_zero]
  have hloop := hcleared.decodeLoop n (by omega)
  rw [hrd, Nat.zero_add, hh] at hloop
  rcases hloop with ⟨t, v, k, hok, hrd', a⟩ | ⟨x, hx, r, out, herr, happ⟩
  · obtain ⟨happ, hcheck⟩ := a.bits.octets a.nb
    have hinput := a.input
    rw [hrd', hh] at hinput
    rw [← octetsOfSymbols_eq] at happ hcheck
    rw [hok, decodeFn_of_symbols hinput]
    have hverdict : u8Accepts t.eng.checker = utf8Valid (octetsOfSymbols v) := by rw [hcheck]; rfl
    cases hvalid : utf8Valid (octetsOfSymbols v) with
    | true => exact ⟨t, by simp only [hverdict, hvalid, if_true], happ⟩
    | false => exact ⟨t, _, by simp only [hverdict, hvalid, Bool.false_eq_true, if_false], happ⟩
  · rw [herr, hx]
    exact ⟨r, out, rfl, happ⟩

theorem reached_ok (t : State) : reached (.ok t) = t := rfl

theorem reached_error (r : Raised) : reached (.error r) = r.at_ := rfl

theorem decodeStages_reached_frame (s : State) : StageFrame s (reached s.decodeStages) := by
  rcases s.decodeStages_frame with ⟨t, e, f⟩ | ⟨r, e, f, -⟩ <;> rw [e] <;> exact f

/-- The error completion of a DECODE started in `s`: its partial output lies below `floor(5 * n / 8)`, where
OUT_BUF is unspecified (60_exceptions.md R222). -/
theorem completed_of_raise {s t : State} {h : Alphabet} {out : List Byte} {e : ErrCode} (he : e ≠ .none)
    (x : Byte) (f : StageFrame (s.start .decode h) t) (happ : Appends (s.start .decode h) t out)
    (hwr : t.eng.wr ≤ 5 * s.inLen.toNat / 8) :
    SameSetting s (t.unspecifyOutput.complete e x 0) ∧
    Completed (t.unspecifyOutput.complete e x 0) e x 0 ∧
    SameOctetsOutside s (t.unspecifyOutput.complete e x 0) (outAddr 0)
      (outAddr (5 * s.inLen.toNat / 8)) := by
  have hn : t.eng.n = s.inLen.toNat := f.n
  have hlen : (t.unspecifyOutput.complete e x 0).outLen = 0 := if_neg he
  refine ⟨⟨f.cfg, f.ie, f.inLen, f.resetAsserted, f.resp, f.port, f.epoch⟩,
    ⟨rfl, rfl, rfl, rfl, by rw [hlen]; rfl⟩, fun a ha => ?_⟩
  have hunspecified : ¬(outAddr 0 ≤ a ∧ a < outAddr (5 * t.eng.n / 8)) := by rw [hn]; omega
  have hwritten : a < outAddr 0 ∨ outAddr t.eng.wr ≤ a := by simp only [outAddr] at ha ⊢; omega
  rw [State.octetAt_complete, State.octetAt_unspecifyOutput, if_neg hunspecified]
  exact happ.others a hwritten

/-- A start of DECODE and its engine transition (42_decode.md R172). -/
theorem decodedFrom_start {s : State} (h : Alphabet) (hn : s.inLen.toNat ≤ 40960) :
    DecodedFrom s (s.start .decode h).engineTurn (decodeFn h s.hostInput) := by
  have hturn : (s.start .decode h).engineTurn = (s.start .decode h).runDecode := rfl
  have hframe := decodeStages_reached_frame (s.start .decode h)
  have hbits : 8 * (reached (s.start .decode h).decodeStages).eng.wr +
      (reached (s.start .decode h).decodeStages).eng.nb ≤ 0 + 5 * s.inLen.toNat :=
    (decodeStages_unpacks (s.start .decode h)).bits
  have hends : EndsWith (s.start .decode h) (s.start .decode h).decodeStages (decodeFn h s.hostInput) :=
    decodeStages_endsWith hn rfl
  rw [hturn, State.runDecode]
  cases hresult : decodeFn h s.hostInput with
  | ok d =>
    rw [hresult] at hends
    obtain ⟨t, hok, happ⟩ := hends
    rw [hok, reached_ok] at hframe hbits
    rw [hok]
    have hwr : t.eng.wr = d.length := happ.wr.trans (Nat.zero_add _)
    have hlen : (t.complete .none 0 t.eng.wr).outLen.toNat = d.length := by
      rw [State.complete_outLen, if_pos rfl, BitVec.toNat_ofNat, hwr, Nat.mod_eq_of_lt (by omega)]
    exact ⟨⟨hframe.cfg, hframe.ie, hframe.inLen, hframe.resetAsserted, hframe.resp, hframe.port,
      hframe.epoch⟩, ⟨rfl, rfl, rfl, rfl, hlen⟩, happ.written, hwr ▸ happ.others⟩
  | invalidCharacter x =>
    rw [hresult] at hends
    obtain ⟨t, out, herr, happ⟩ := hends
    rw [herr, reached_error] at hframe hbits
    rw [herr]
    exact completed_of_raise (by simp) x hframe happ (by omega)
  | invalidUtf8 =>
    rw [hresult] at hends
    obtain ⟨t, out, herr, happ⟩ := hends
    rw [herr, reached_error] at hframe hbits
    rw [herr]
    exact completed_of_raise (by simp) 0 hframe happ (by omega)

end Sys2Proof.DecoderStages

namespace Sys2Proof

open Machine Claims Dispatch AlphabetTables DecodeForm DecoderStages

/-- Settles O22: `decodeStages_endsWith` from index 0. -/
theorem decoderStagesAgreeWithDecodeFn : Obligations.DecoderStagesAgreeWithDecodeFn := by
  unfold Obligations.DecoderStagesAgreeWithDecodeFn
  intro s h n hn he
  have hwr0 : s.eng.wr = 0 := by rw [he]; rfl
  have hends := decodeStages_endsWith hn he
  cases hresult : decodeFn h s.commandInput with
  | ok d =>
    rw [hresult] at hends
    obtain ⟨t, hok, hwr, hwritten, hothers⟩ := hends
    rw [hwr0] at hwr hwritten hothers
    rw [Nat.zero_add] at hwr
    exact ⟨t, hok, hwr, hwritten, hwr ▸ hothers⟩
  | invalidCharacter x =>
    rw [hresult] at hends
    obtain ⟨t, -, herr, -⟩ := hends
    exact ⟨_, herr, rfl, rfl⟩
  | invalidUtf8 =>
    rw [hresult] at hends
    obtain ⟨t, -, herr, -⟩ := hends
    exact ⟨_, herr, rfl⟩

/-- Settles O21: an idle block with a legal length starts the command, and the start's engine transition
is `decodedFrom_start`. -/
theorem decodeCommandsReportDecodeFn : Obligations.DecodeCommandsReportDecodeFn := by
  unfold Obligations.DecodeCommandsReportDecodeFn
  intro s hcfg hb hl
  have hn : s.inLen.toNat ≤ 40960 := by
    simp only [Config.Params.wf, Bool.and_eq_true, decide_eq_true_eq] at hcfg
    omega
  have hdecoded (h : Alphabet) :
      DecodedFrom s (s.dispatchCommand .decode h).engineTurn (decodeFn h s.hostInput) := by
    rw [dispatchCommand_legal hb .decode h hl]
    exact decodedFrom_start h hn
  exact ⟨⟨_, exec_decodeStd s, hdecoded .std⟩, ⟨_, exec_decodeHex s, hdecoded .hex⟩⟩

/-- Settles O27: in the stage by the class of the octet; in the whole the `=` is the first non-member of
the normalised input, since a later octet other than `=` keeps it out of the trailing run. -/
theorem misplacedPaddingIsReported : Obligations.MisplacedPaddingIsReported := by
  unfold Obligations.MisplacedPaddingIsReported
  refine ⟨fun s hc => ⟨_, decodeOctet_of_pad hc, rfl⟩,
    fun s hp hws hpad => ⟨_, decodeOctet_of_misplaced hp hws hpad, rfl, rfl⟩,
    fun h before between after c hbefore hbetween hws hpad => ?_⟩
  have hws' := classify_ne_ws_iff.mp hws
  have hup : up c ≠ padOctet := fun e => hpad (classify_eq_pad_iff.mpr ⟨hws', e⟩)
  obtain ⟨v, hv⟩ := normalised_of_wsOrSymbol hbefore
  obtain ⟨k, hk⟩ := normalised_of_wsOrPad hbetween
  have hinput : normalised (before ++ padOctet :: (between ++ c :: after)) =
      v.map (encLut h) ++ (List.replicate (k + 1) padOctet ++ up c :: normalised after) := by
    have hpadOctet : classify h padOctet = .pad := classify_eq_pad_iff.mpr (by decide)
    rw [normalised_append, hv, normalised_cons_of_pad hpadOctet, normalised_append, hk,
      normalised_cons_of_not_isWS hws', List.replicate_succ, List.cons_append]
  exact decodeFn_of_nonmember hinput hup nofun

end Sys2Proof
end

section
/-! The CMD write (43_control.md R200 to R204, R207): the step of a write to CMD, and what the state is
after a start, a rejection, or a word dropped while BUSY = 1. -/

namespace Sys2Proof.CommandWords

open Sys2Proof.Machine Sys2Proof.Claims Sys2Proof.RegisterAccess Sys2Proof.StepEffects

/-- The step of a CMD write: off the port, answered OK, then `on_cmd_write` (43_control.md R200). -/
theorem step_cmdWrite {s : State} {w : Word} {rest : List Event}
    (hp : s.port = .txn (cmdWrite w) :: rest) (hr : s.resetAsserted = false) :
    step s = ((s.withPort rest).answer .ok).writeCmd w :=
  (step_txn hp hr).trans (perform_cmdWrite _ w)

theorem step_cmdWrite_command {s : State} {w : Word} {i : Instr} {rest : List Event}
    (hp : s.port = .txn (cmdWrite w) :: rest) (hr : s.resetAsserted = false)
    (hd : decode w = .command i) : step s = exec i ((s.withPort rest).answer .ok) :=
  (step_cmdWrite hp hr).trans (writeCmd_command hd _)

/-! ### Dropped words (43_control.md R201) -/

theorem exec_busy {s : State} (hb : s.busy = true) (i : Instr) : exec i s = .next s := by
  rcases exec_cases i s with e | ⟨hidle, -⟩ | ⟨hidle, -⟩
  · exact e
  · exact absurd (hb.symm.trans hidle) (by decide)
  · exact absurd (hb.symm.trans hidle) (by decide)

theorem writeCmd_busy {s : State} (hb : s.busy = true) (w : Word) : s.writeCmd w = .next s := by
  cases hd : decode w with
  | command i => rw [writeCmd_command hd, exec_busy hb]
  | illegal why => rw [writeCmd_illegal hd, State.rejectCommand, if_pos hb]

/-! ### Rejection and start -/

theorem engineTurn_idle {s : State} (hb : s.busy = false) : s.engineTurn = s := by
  simp [State.engineTurn, hb]

/-- A completion at once, with no engine transition after it (43_control.md R203, R204). -/
theorem rejectedFrom_complete (s : State) {e : ErrCode} (he : e ≠ .none) :
    RejectedFrom s (s.complete e 0 0) e where
  setting := ⟨rfl, rfl, rfl, rfl, rfl, rfl, rfl⟩
  octets _ := rfl
  draws := rfl
  eng := rfl
  result := ⟨rfl, rfl, rfl, rfl, by rw [State.complete_outLen, if_neg he]; rfl⟩
  noEngineRun := engineTurn_idle rfl

/-- DONE and the code of BAD_CMD, nothing else (43_control.md R203, 10_state.md R25 to R29). -/
theorem statusWord_complete_badCmd (s : State) : (s.complete .badCmd 0 0).statusWord = 0x00000032 :=
  BitVec.eq_of_toNat_eq (statusWord_toNat _)

theorem startedFrom_start (s : State) (op : EngineOp) (h : Alphabet) :
    StartedFrom s (s.start op h) op h where
  setting := ⟨rfl, rfl, rfl, rfl, rfl, rfl, rfl⟩
  octets _ := rfl
  draws := rfl
  op := rfl
  h := rfl
  n := rfl
  rd := rfl
  wr := rfl
  acc := rfl
  nb := rfl
  symcnt := rfl
  padSeen := rfl
  u8 := rfl
  u8Bad := rfl
  outLen := rfl
  done := rfl
  err := rfl
  errChar := rfl
  busy := rfl

end Sys2Proof.CommandWords

namespace Sys2Proof

open Machine Claims Dispatch StepEffects CommandWords

/-- Settles O5: the step of the CMD write, and the write of a legal word. -/
theorem stepRunsTheDecodedCommand : Obligations.StepRunsTheDecodedCommand := by
  unfold Obligations.StepRunsTheDecodedCommand
  exact fun _ _ _ _ => step_cmdWrite_command

/-- Settles O6: the write of an illegal word rejects it, and a rejection while idle is
`complete(BAD_CMD, 0, 0)`. -/
theorem illegalWordCompletesWithBadCmd : Obligations.IllegalWordCompletesWithBadCmd := by
  unfold Obligations.IllegalWordCompletesWithBadCmd
  intro s w why rest hp hr hb hd
  refine ⟨((s.withPort rest).answer .ok).complete .badCmd 0 0, ?_,
    rejectedFrom_complete _ (by decide), statusWord_complete_badCmd _⟩
  rw [step_cmdWrite hp hr, writeCmd_illegal hd,
    rejectCommand_idle (s := (s.withPort rest).answer .ok) hb]

/-- Settles O7: a legal word and an illegal one alike leave a busy block as it is. -/
theorem commandWhileBusyIsDropped : Obligations.CommandWhileBusyIsDropped := by
  unfold Obligations.CommandWhileBusyIsDropped
  refine ⟨fun s w rest hp hr hb => ?_, fun s i hb => exec_busy hb i⟩
  rw [step_cmdWrite hp hr, writeCmd_busy (s := (s.withPort rest).answer .ok) hb]

/-- Settles O8: the decoder on the two words, the arm of NOP, and the step of its CMD write. -/
theorem nopChangesNothing : Obligations.NopChangesNothing := by
  unfold Obligations.NopChangesNothing
  have hnop : decode 0x00000000 = .command .nop := by decide
  exact ⟨hnop, ⟨.nopWithH, by decide⟩, exec_nop,
    fun s rest hp hr => (step_cmdWrite_command hp hr hnop).trans (exec_nop _)⟩

/-- Settles O9: the dispatch of an idle block with a legal length is the start. -/
theorem encodeAndDecodeWordsStart : Obligations.EncodeAndDecodeWordsStart := by
  unfold Obligations.EncodeAndDecodeWordsStart
  intro s hb hl
  have hstarts (op : EngineOp) (h : Alphabet) : StartedFrom s (s.dispatchCommand op h) op h :=
    dispatchCommand_legal hb op h hl ▸ startedFrom_start s op h
  exact ⟨⟨_, exec_encodeStd s, hstarts _ _⟩, ⟨_, exec_encodeHex s, hstarts _ _⟩,
    ⟨_, exec_decodeStd s, hstarts _ _⟩, ⟨_, exec_decodeHex s, hstarts _ _⟩⟩

/-- Settles O10: the two branches of the dispatch of an idle block. -/
theorem overlongInputCompletesWithBadLen : Obligations.OverlongInputCompletesWithBadLen := by
  unfold Obligations.OverlongInputCompletesWithBadLen
  intro s i hb hi
  obtain ⟨op, h, hexec⟩ := exec_eq_dispatchCommand hi
  refine ⟨fun hl => ⟨_, hexec s, ?_⟩, fun hl => ⟨_, hexec s, ?_⟩⟩
  · rw [dispatchCommand_overlong hb op h hl]
    exact rejectedFrom_complete s (by decide)
  · rw [dispatchCommand_legal hb op h hl]
    exact ⟨rfl, rfl⟩

/-- Settles O11: a command word does nothing, completes with BAD_LEN, or starts; only a start, from
BUSY = 0 to BUSY = 1, changes the engine elements. -/
theorem commandWordFrame : Obligations.CommandWordFrame := by
  unfold Obligations.CommandWordFrame
  intro i s
  rcases exec_cases i s with e | ⟨-, hi, -, e⟩ | ⟨hb, hi, -, op, h, e⟩
  · exact ⟨s, e, ⟨rfl, rfl, rfl, rfl, rfl, rfl, rfl⟩, fun _ => rfl, rfl, fun _ => rfl, fun _ => rfl⟩
  · have rejected := rejectedFrom_complete s (e := .badLen) (by decide)
    exact ⟨_, e, rejected.setting, rejected.octets, rejected.draws, fun h => absurd h hi,
      fun _ => rejected.eng⟩
  · have started := startedFrom_start s op h
    refine ⟨_, e, started.setting, started.octets, started.draws, fun h => absurd h hi, ?_⟩
    rintro (hbusy | hidle)
    · exact absurd (hbusy.symm.trans hb) (by decide)
    · exact absurd (started.busy.symm.trans hidle) (by decide)

end Sys2Proof
end

section
/-! A running command (43_control.md R205 to R209): no host transaction disturbs it, its engine
transition is the one of the start it stands at, and it completes after the waiting events at the
latest. -/

namespace Sys2Proof.RunningCommand

open Sys2Proof.Machine Sys2Proof.Claims Sys2Proof.Independence Sys2Proof.InvariantSteps
  Sys2Proof.RegisterAccess Sys2Proof.StepEffects Sys2Proof.BufferAccess Sys2Proof.EncoderStages
  Sys2Proof.DecoderStages Sys2Proof.CommandWords

/-! ### The host's transactions during a command (43_control.md R209, 20_memory.md R68) -/

/-- What the host cannot change while BUSY = 1. -/
structure Undisturbed (s t : State) : Prop where
  busy : t.busy = s.busy
  eng : t.eng = s.eng
  cfg : t.cfg = s.cfg
  inLen : t.inLen = s.inLen
  port : t.port = s.port
  octets : SameOctets s t

theorem Undisturbed.answer (s : State) (r : Response) : Undisturbed s (s.answer r) :=
  ⟨rfl, rfl, rfl, rfl, rfl, fun _ => rfl⟩

/-- Every transaction while BUSY = 1 answers a next state: of the writes only CTRL and STATUS have an
effect, on IE and DONE. -/
theorem perform_undisturbed {s : State} (hb : s.busy = true) (x : Txn) :
    ∃ t, s.perform x = .next t ∧ Undisturbed s t := by
  rcases s.perform_cases x with ⟨r, e⟩ | ⟨r, -, -, e⟩ | ⟨v, -, -, e⟩ | ⟨v, -, -, e⟩ | ⟨v, -, -, e⟩ |
    ⟨v, -, -, e⟩ | ⟨i, v, -, -, e⟩
  · exact ⟨_, e, .answer s r⟩
  · exact ⟨_, e, rfl, rfl, rfl, rfl, rfl, fun _ => rfl⟩
  · exact ⟨_, e, rfl, rfl, rfl, rfl, rfl, fun _ => rfl⟩
  · exact ⟨_, e.trans (writeCmd_busy (s := s.answer .ok) hb v), .answer s .ok⟩
  · rw [writeStatus_eq] at e
    exact ⟨_, e, rfl, rfl, rfl, rfl, rfl, fun _ => rfl⟩
  · rw [writeInLen_busy (s := s.answer .ok) hb] at e
    exact ⟨_, e, .answer s .ok⟩
  · rw [writeInput_busy (s := s.answer .ok) hb] at e
    exact ⟨_, e, .answer s .ok⟩

theorem step_txn_undisturbed {s : State} {x : Txn} {rest : List Event} (f : Sane s)
    (hb : s.busy = true) (hp : s.port = .txn x :: rest) :
    ∃ t, step s = .next t ∧ Sane t ∧ Undisturbed (s.withPort rest) t := by
  have hr := f.not_resetAsserted_of_busy hb
  obtain ⟨t, ht, hu⟩ := perform_undisturbed (s := s.withPort rest) hb x
  exact ⟨t, (step_txn hp hr).trans ht, (f.withPort rest).perform hr ht, hu⟩

/-! ### The engine transition of a running command (43_control.md R205, R206) -/

/-- A running command stands where its start left it (43_control.md R202, R208). -/
theorem start_eq_self {s : State} (f : Sane s) (hb : s.busy = true) :
    s.start s.eng.op s.eng.h = s := by
  obtain ⟨hdone, herr, hchar, hlen, heng⟩ := f.started hb
  unfold State.start
  rw [← heng, ← hdone, ← herr, ← hchar, ← hlen, ← hb]

/-- OUT_BUF octets that a completed command may have changed: its output, or what an error leaves
unspecified (60_exceptions.md R222). -/
structure ResultFrame (s u : State) : Prop where
  setting : SameSetting s u
  success : u.err = .none → SameOctetsOutside s u (outAddr 0) (outAddr u.outLen.toNat)
  error : u.err ≠ .none → SameOctetsOutside s u (outAddr 0) (outAddr (5 * s.inLen.toNat / 8))

theorem resultFrame_of_encodedFrom {s u : State} {h : Alphabet} (e : EncodedFrom s u h) :
    ResultFrame s u where
  setting := e.setting
  success _ := e.result.outLen ▸ e.others
  error herr := absurd e.result.err herr

theorem resultFrame_of_decodedFrom {s u : State} {r : DecodeResult} (e : DecodedFrom s u r) :
    ResultFrame s u := by
  cases r with
  | ok d =>
    obtain ⟨hset, hres, -, hothers⟩ := e
    exact ⟨hset, fun _ => hres.outLen ▸ hothers, fun herr => absurd hres.err herr⟩
  | invalidCharacter x =>
    obtain ⟨hset, hres, hothers⟩ := e
    exact ⟨hset, fun herr => absurd (hres.err.symm.trans herr) (by decide), fun _ => hothers⟩
  | invalidUtf8 =>
    obtain ⟨hset, hres, hothers⟩ := e
    exact ⟨hset, fun herr => absurd (hres.err.symm.trans herr) (by decide), fun _ => hothers⟩

theorem sizes_le {p : Config.Params} (h : p.wf = true) :
    p.inBufSize ≤ 40960 ∧ p.outBufSize ≤ 65536 := by
  simp only [Config.Params.wf, Bool.and_eq_true, decide_eq_true_eq] at h
  omega

theorem n_eq_inLen {s : State} (f : Sane s) (hb : s.busy = true) : s.eng.n = s.inLen.toNat := by
  rw [f.eng_of_busy hb]
  rfl

theorem engineTurn_resultFrame {s : State} (f : Sane s) (hb : s.busy = true) :
    ResultFrame s s.engineTurn := by
  have hn : s.inLen.toNat ≤ 40960 :=
    n_eq_inLen f hb ▸ f.n.trans (sizes_le f.cfg).1
  have hstart := start_eq_self f hb
  cases hop : s.eng.op with
  | encode =>
    have e := encodedFrom_start s.eng.h hn
    rw [← hop, hstart] at e
    exact resultFrame_of_encodedFrom e
  | decode =>
    have e := decodedFrom_start s.eng.h hn
    rw [← hop, hstart] at e
    exact resultFrame_of_decodedFrom e

theorem engineTurn_latched (s : State) :
    s.engineTurn.eng.op = s.eng.op ∧ s.engineTurn.eng.h = s.eng.h ∧ s.engineTurn.eng.n = s.eng.n := by
  rcases s.engineTurn_cases with ⟨-, e⟩ | ⟨-, t, f, e, -⟩ | ⟨-, -, r, -, f, -, e⟩ <;> rw [e]
  · exact ⟨rfl, rfl, rfl⟩
  · exact ⟨f.op, f.h, f.n⟩
  · exact ⟨f.op, f.h, f.n⟩

/-- A completion with NONE reports `e.wr`, which fits OUT_LEN since it is within OUT_BUF. -/
theorem engineTurn_outLen {s : State} (f : Sane s) (hb : s.busy = true)
    (herr : s.engineTurn.err = .none) : s.engineTurn.outLen.toNat = s.engineTurn.eng.wr := by
  have hwr : s.engineTurn.eng.wr ≤ 65536 := f.engineTurn.wr.trans (sizes_le f.engineTurn.cfg).2
  rcases s.engineTurn_cases with ⟨hidle, -⟩ | ⟨-, t, -, e, -⟩ | ⟨-, -, r, -, -, hraised, e⟩
  · exact absurd (hb.symm.trans hidle) (by decide)
  · rw [e] at hwr ⊢
    rw [State.complete_outLen, if_pos rfl, BitVec.toNat_ofNat]
    exact Nat.mod_eq_of_lt (hwr.trans_lt (by decide))
  · rw [e, State.complete_err] at herr
    rcases hraised with hc | ⟨hc, -⟩ <;> exact absurd (hc.symm.trans herr) (by decide)

/-! ### Completion (43_control.md R205) -/

theorem run_succ {s t : State} (h : step s = .next t) (k : Nat) :
    Sys2Proof.core.run (k + 1) s = Sys2Proof.core.run k t := by
  have hcore : Sys2Proof.core.step s = .next t := h
  simp only [Host.Core.run, hcore]

theorem run_one {s t : State} (h : step s = .next t) : Sys2Proof.core.run 1 s = .next t :=
  run_succ h 0

/-- BUSY falls within the waiting events and one engine transition; by completion unless a reset edge
waits. -/
theorem run_completes (events : List Event) {s : State} (f : Sane s) (hb : s.busy = true)
    (hp : s.port = events) :
    ∃ k t, k ≤ events.length + 1 ∧ Sys2Proof.core.run k s = .next t ∧ t.busy = false ∧
      ((∀ e ∈ events, e ≠ .resetAssert ∧ e ≠ .resetRelease) → t.done = true) := by
  induction events generalizing s with
  | nil =>
    obtain ⟨hbusy, hdone⟩ := engineTurn_completes hb
    exact ⟨1, _, le_rfl, run_one (step_idlePort hp), hbusy, fun _ => hdone⟩
  | cons e rest ih =>
    cases e with
    | txn x =>
      obtain ⟨t, ht, f', hu⟩ := step_txn_undisturbed f hb hp
      obtain ⟨k, u, hk, hrun, hbusy, hdone⟩ := ih f' (hu.busy.trans hb) hu.port
      exact ⟨k + 1, u, Nat.succ_le_succ hk, (run_succ ht k).trans hrun, hbusy,
        fun hall => hdone fun e he => hall e (List.mem_cons_of_mem _ he)⟩
    | engineSlot =>
      obtain ⟨hbusy, hdone⟩ := engineTurn_completes (s := s.withPort rest) hb
      exact ⟨1, _, Nat.le_add_left .., run_one (step_engineSlot hp), hbusy, fun _ => hdone⟩
    | resetAssert =>
      exact ⟨1, _, Nat.le_add_left .., run_one (step_resetAssert hp), rfl,
        fun hall => absurd rfl (hall _ List.mem_cons_self).1⟩
    | resetRelease =>
      exact ⟨1, _, Nat.le_add_left .., run_one (step_resetRelease hp), rfl,
        fun hall => absurd rfl (hall _ List.mem_cons_self).2⟩

/-! ### The registers during a command (43_control.md R208) -/

theorem statusWord_running {s : State} (f : Sane s) (hb : s.busy = true) : s.statusWord = 1 := by
  obtain ⟨hdone, herr, hchar, -⟩ := f.started hb
  rw [State.statusWord, hb, hdone, herr, hchar]
  rfl

end Sys2Proof.RunningCommand

namespace Sys2Proof

open Machine Claims Independence InvariantSteps RegisterAccess RunningCommand

/-- Settles O33: the transaction leaves engine elements and octets, so the engine's turn before and
after it is the same work (10_state.md R41). -/
theorem hostCannotChangeARunningCommand : Obligations.HostCannotChangeARunningCommand := by
  unfold Obligations.HostCannotChangeARunningCommand
  intro s x rest hinv hb hp
  have f := (inv_iff_sane s).mp hinv
  obtain ⟨t, ht, f', hu⟩ := step_txn_undisturbed f hb hp
  have hbusy : t.busy = true := hu.busy.trans hb
  have hoctets : SameOctets s t := hu.octets
  have hwork : SameWork t s := ⟨hu.eng, fun a _ => hoctets a⟩
  exact ⟨t, ht, hbusy, hu.eng, hu.cfg, hu.inLen, hoctets,
    hwork.sameResults_engineTurn hbusy hb f'.rd⟩

/-- Settles O31: the frame of the start's engine transition, with OUT_LEN read as `e.wr`. -/
theorem engineTransitionFrame : Obligations.EngineTransitionFrame := by
  unfold Obligations.EngineTransitionFrame
  intro s hinv hb
  have f := (inv_iff_sane s).mp hinv
  obtain ⟨hset, hsuccess, herror⟩ := engineTurn_resultFrame f hb
  obtain ⟨hop, hh, hn⟩ := engineTurn_latched s
  refine ⟨hset, hop, hh, hn, fun herr => ?_, fun herr => ⟨f.engineTurn.outLen_zero herr, ?_⟩⟩
  · have hlen := engineTurn_outLen f hb herr
    exact ⟨hlen, hlen ▸ hsuccess herr⟩
  · exact n_eq_inLen f hb ▸ herror herr

/-- Settles O32: `run_completes` for the events at the port. -/
theorem startedCommandCompletes : Obligations.StartedCommandCompletes := by
  unfold Obligations.StartedCommandCompletes
  exact fun s hinv hb => run_completes s.port ((inv_iff_sane s).mp hinv) hb rfl

/-- Settles O35: each read answers the register, and the invariant fixes the registers while BUSY = 1. -/
theorem statusDuringACommand : Obligations.StatusDuringACommand := by
  unfold Obligations.StatusDuringACommand
  intro s hinv hb
  have f := (inv_iff_sane s).mp hinv
  obtain ⟨hdone, -, -, houtLen, -⟩ := f.started hb
  have hinLen : BitVec.ofNat 32 s.eng.n = s.inLen := by
    rw [n_eq_inLen f hb, BitVec.ofNat_toNat, BitVec.setWidth_eq]
  obtain ⟨-, -, -, hstatus, hreadIn, hreadOut, -⟩ := registerReads s
  rw [statusWord_running f hb] at hstatus
  rw [houtLen] at hreadOut
  rw [← hinLen] at hreadIn
  refine ⟨hstatus, hreadOut, hreadIn, fun v => ?_, ?_⟩
  · exact ⟨_, perform_writeTxn s (by decide) (by decide) v, rfl⟩
  · rw [State.irq, hdone, Bool.and_false]

end Sys2Proof
end

section
/-! Exceptions (60_exceptions.md R221, R226, R230, R231): which transactions get BUSERR, that nothing
stops a block whose reset input is released, and the interrupt output. -/

namespace Sys2Proof.Exceptions

open Sys2Proof.Machine Sys2Proof.Claims Sys2Proof.RegisterAccess Sys2Proof.StepEffects
  Sys2Proof.BufferAccess Sys2Proof.CommandWords Sys2Proof.RunningCommand

/-! ### BUSERR (60_exceptions.md R226) -/

/-- The address map sends to BUSERR exactly the accesses of R226: branch by branch of the map, the
conditions (a), (b) and (c) on the offset and the size. -/
theorem place_eq_busErr_iff (p : Config.Params) (a n : Nat) :
    place p a n = .busErr ↔ BusErrCondition p a n := by
  unfold place BusErrCondition
  split_ifs <;> simp only [true_iff, false_iff] <;> omega

/-- The response is OK: to a write, or to a read with its data. -/
def AnsweredOk (t : State) : Prop := t.resp = some .ok ∨ ∃ d, t.resp = some (.data d)

/-- What no transaction changes: the waiting events and the level of the reset input. -/
structure SameOutside (s t : State) : Prop where
  port : t.port = s.port
  resetAsserted : t.resetAsserted = s.resetAsserted

theorem SameOutside.answer (s : State) (r : Response) : SameOutside s (s.answer r) := ⟨rfl, rfl⟩

theorem perform_busErr {s : State} {x : Txn} (hp : placeOf s.cfg x = .busErr) :
    s.perform x = .next (s.answer .busErr) := by
  simp only [State.perform, hp]

/-- A CMD write of any word answers a next state and keeps the setting of the block. -/
theorem writeCmd_next (s : State) (w : Word) : ∃ t, s.writeCmd w = .next t ∧ SameSetting s t := by
  cases hd : decode w with
  | command i =>
    obtain ⟨t, ht, hset, -⟩ := commandWordFrame i s
    exact ⟨t, (writeCmd_command hd s).trans ht, hset⟩
  | illegal why =>
    refine ⟨_, writeCmd_illegal hd s, ?_⟩
    rcases s.rejectCommand_cases with ⟨-, e⟩ | ⟨-, e⟩ <;> rw [e]
    · exact ⟨rfl, rfl, rfl, rfl, rfl, rfl, rfl⟩
    · exact (rejectedFrom_complete s (by decide)).setting

/-- A register write answers a next state and leaves the response that the port recorded. -/
theorem writeReg_next (s : State) (r : Reg) (v : Word) :
    ∃ t, s.writeReg r v = .next t ∧ SameOutside s t ∧ t.resp = s.resp := by
  cases r with
  | cmd =>
    obtain ⟨t, ht, hset⟩ := writeCmd_next s v
    exact ⟨t, ht, ⟨hset.port, hset.resetAsserted⟩, hset.resp⟩
  | status => exact ⟨_, congrArg Host.Outcome.next (writeStatus_eq s v), ⟨rfl, rfl⟩, rfl⟩
  | inLen =>
    refine ⟨_, rfl, ?_⟩
    rcases s.writeInLen_cases v with ⟨-, e⟩ | ⟨-, e⟩ <;> rw [e] <;> exact ⟨⟨rfl, rfl⟩, rfl⟩
  | id | ctrl | outLen | inCap | outCap | reserved => exact ⟨_, rfl, ⟨rfl, rfl⟩, rfl⟩

/-- A transaction that lands on a register or in a buffer is answered OK. -/
theorem perform_answeredOk {s : State} {x : Txn} (hp : placeOf s.cfg x ≠ .busErr) :
    ∃ t, s.perform x = .next t ∧ SameOutside s t ∧ AnsweredOk t := by
  unfold State.perform
  cases hplace : placeOf s.cfg x with
  | busErr => exact absurd hplace hp
  | reg r =>
    cases x.access with
    | read => exact ⟨_, rfl, .answer _ _, .inr ⟨_, rfl⟩⟩
    | write v =>
      obtain ⟨t, ht, hout, hresp⟩ := writeReg_next (s.answer .ok) r v
      exact ⟨t, ht, ⟨hout.port, hout.resetAsserted⟩, .inl hresp⟩
  | inBuf i =>
    cases x.access with
    | read => exact ⟨_, rfl, .answer _ _, .inr ⟨_, rfl⟩⟩
    | write v =>
      refine ⟨_, rfl, ?_⟩
      rcases (s.answer .ok).writeInput_cases i x.size.octets v with ⟨-, e⟩ | ⟨-, e⟩ <;> rw [e] <;>
        exact ⟨⟨rfl, rfl⟩, .inl rfl⟩
  | outBuf i =>
    cases x.access with
    | read =>
      refine ⟨_, rfl, ?_⟩
      cases hb : s.busy with
      | false => rw [readOutput_idle hb]; exact ⟨⟨rfl, rfl⟩, .inr ⟨_, rfl⟩⟩
      | true => rw [readOutput_busy hb]; exact ⟨⟨rfl, rfl⟩, .inr ⟨_, rfl⟩⟩
    | write v => exact ⟨_, rfl, .answer _ _, .inl rfl⟩

/-! ### Nothing stops the machine (60_exceptions.md R231) -/

theorem perform_next (s : State) (x : Txn) : ∃ t, s.perform x = .next t ∧ SameOutside s t := by
  by_cases hp : placeOf s.cfg x = .busErr
  · exact ⟨_, perform_busErr hp, .answer _ _⟩
  · obtain ⟨t, ht, hout, -⟩ := perform_answeredOk hp
    exact ⟨t, ht, hout⟩

theorem step_next_or_refused (s : State) :
    (∃ t, step s = .next t) ∨
      (step s = .refused .transactionDuringReset ∧ s.resetAsserted = true ∧
        ∃ x rest, s.port = .txn x :: rest) := by
  cases hp : s.port with
  | nil => exact .inl ⟨_, step_idlePort hp⟩
  | cons e rest =>
    cases e with
    | txn x =>
      cases hr : s.resetAsserted with
      | true => exact .inr ⟨step_txn_duringReset hp hr, rfl, x, rest, rfl⟩
      | false =>
        obtain ⟨t, ht, -⟩ := perform_next (s.withPort rest) x
        exact .inl ⟨t, (step_txn hp hr).trans ht⟩
    | engineSlot => exact .inl ⟨_, step_engineSlot hp⟩
    | resetAssert => exact .inl ⟨_, step_resetAssert hp⟩
    | resetRelease => exact .inl ⟨_, step_resetRelease hp⟩

theorem engineTurn_sameOutside (s : State) : SameOutside s s.engineTurn := by
  rcases s.engineTurn_cases with ⟨-, e⟩ | ⟨-, t, f, e, -⟩ | ⟨-, -, r, -, f, -, e⟩ <;> rw [e]
  · exact ⟨rfl, rfl⟩
  · exact ⟨f.port, f.resetAsserted⟩
  · exact ⟨f.port, f.resetAsserted⟩

/-- The reset input is released and no assertion of it waits (70_reset_and_hazards.md R250). -/
structure StaysReleased (s : State) : Prop where
  released : s.resetAsserted = false
  noAssertion : ∀ e ∈ s.port, e ≠ .resetAssert

namespace StaysReleased

variable {s t : State}

theorem sameOutside (f : StaysReleased s) (h : SameOutside s t) : StaysReleased t :=
  ⟨h.resetAsserted.trans f.released, h.port ▸ f.noAssertion⟩

theorem withPort {e : Event} {rest : List Event} (f : StaysReleased s) (hp : s.port = e :: rest) :
    StaysReleased (s.withPort rest) :=
  ⟨f.released, fun e' he' => f.noAssertion e' (hp ▸ List.mem_cons_of_mem e he')⟩

theorem step (f : StaysReleased s) (h : Machine.step s = .next t) : StaysReleased t := by
  rcases step_cases h with ⟨-, rfl⟩ | ⟨x, rest, hp, -, hx⟩ | ⟨rest, hp, rfl⟩ | ⟨rest, hp, -⟩ |
    ⟨rest, hp, rfl⟩
  · exact f.sameOutside (engineTurn_sameOutside s)
  · obtain ⟨u, hu, hout⟩ := perform_next (s.withPort rest) x
    obtain rfl : u = t := by injection hu.symm.trans hx
    exact (f.withPort hp).sameOutside hout
  · exact (f.withPort hp).sameOutside (engineTurn_sameOutside _)
  · exact absurd rfl (f.noAssertion .resetAssert (hp ▸ List.mem_cons_self))
  · exact ⟨rfl, (f.withPort hp).noAssertion⟩

theorem step_next (f : StaysReleased s) : ∃ t, Machine.step s = .next t := by
  rcases step_next_or_refused s with h | ⟨-, hr, -⟩
  · exact h
  · exact absurd (f.released.symm.trans hr) (by decide)

/-- A run never stops while reset stays released. -/
theorem safeRun (f : StaysReleased s) (k : Nat) : SafeRun k s := by
  induction k generalizing s with
  | zero => exact ⟨s, rfl⟩
  | succ k ih =>
    obtain ⟨t, ht⟩ := f.step_next
    obtain ⟨u, hu⟩ := ih (f.step ht)
    exact ⟨u, (run_succ ht k).trans hu⟩

end StaysReleased

/-! ### The interrupt output (60_exceptions.md R230) -/

theorem irq_of_not_done {s : State} (h : s.done = false) : s.irq = false := by
  rw [State.irq, h, Bool.and_false]

theorem irq_of_done {s : State} (h : s.done = true) : s.irq = s.ie := by
  rw [State.irq, h, Bool.and_true]

theorem irq_writeCtrl (s : State) (v : Word) : (s.writeCtrl v).irq = (v.getLsbD 0 && s.done) := rfl

theorem perform_ctrlWrite (s : State) (v : Word) :
    s.perform (writeTxn 0x004 .four v) = .next ((s.answer .ok).writeCtrl v) :=
  perform_writeTxn s (by decide) (by decide) v

end Sys2Proof.Exceptions

namespace Sys2Proof

open Machine Claims Exceptions

/-- Settles O47: R226 is where the address map answers BUSERR; every other place answers OK. -/
theorem busErrExactlyOnBadAccess : Obligations.BusErrExactlyOnBadAccess := by
  unfold Obligations.BusErrExactlyOnBadAccess
  intro s x
  rw [← place_eq_busErr_iff]
  refine ⟨perform_busErr, fun hp => ?_⟩
  obtain ⟨t, ht, -, hok⟩ := perform_answeredOk hp
  exact ⟨t, ht, hok⟩

/-- Settles O56: a step is refused for a transaction during reset only, and a step from a released
block leaves it released. -/
theorem onlyATransactionDuringResetStops : Obligations.OnlyATransactionDuringResetStops := by
  unfold Obligations.OnlyATransactionDuringResetStops
  exact ⟨step_next_or_refused, fun k _ hr hp => StaysReleased.safeRun ⟨hr, hp⟩ k⟩

/-- Settles O14: of what the engine's turn can be, only the completion with NONE is an ENCODE's. -/
theorem encodeNeverFails : Obligations.EncodeNeverFails := by
  unfold Obligations.EncodeNeverFails
  intro s hb hop
  rcases s.engineTurn_cases with ⟨hidle, -⟩ | ⟨-, t, -, e, -⟩ | ⟨-, hdecode, -⟩
  · exact absurd (hb.symm.trans hidle) (by decide)
  · rw [e]
    exact ⟨rfl, rfl, rfl, rfl⟩
  · exact absurd (hop.symm.trans hdecode) (by decide)

/-- Settles O51: a start and an acknowledgement leave DONE = 0, a completion DONE = 1, and a CTRL write
IE as written. -/
theorem irqFollowsIeAndDone : Obligations.IrqFollowsIeAndDone := by
  unfold Obligations.IrqFollowsIeAndDone
  intro s
  refine ⟨rfl, fun op h => irq_of_not_done rfl, fun e ch len => irq_of_done rfl, ?_, ?_, ?_⟩
  · exact ⟨_, statusWriteClearsDoneOnly s 0x00000002, irq_of_not_done (Bool.and_false s.done)⟩
  · exact ⟨_, perform_ctrlWrite s 1, irq_writeCtrl (s.answer .ok) 1⟩
  · exact ⟨_, perform_ctrlWrite s 0, irq_writeCtrl (s.answer .ok) 0, rfl⟩

end Sys2Proof
end

section
/-! Reset (70_reset_and_hazards.md R250 to R252): the block as an edge of the reset input leaves it, and a
command abandoned by it. -/

namespace Sys2Proof.ResetEdges

open Sys2Proof.Machine Sys2Proof.RegisterAccess

/-! ### The invariant at reset -/

/-- The engine elements are 0 at reset, within every bound of 10_state.md R40. -/
theorem engineBounded_resetIn (p : Config.Params) : (State.resetIn p).engineBounded = true := by
  simp [State.engineBounded, State.resetIn, Engine.atReset]

/-- OUT_LEN and ERRCHAR are 0 at reset. -/
theorem resultsCoherent_resetIn (p : Config.Params) : (State.resetIn p).resultsCoherent = true := by
  simp [State.resultsCoherent, State.resetIn]

/-- A legal configuration is all that the invariant asks of the state after reset: no octet is listed,
the block is idle, and reset is not asserted. -/
theorem inv_resetIn {p : Config.Params} (hp : p.wf = true) : Machine.Inv (State.resetIn p) :=
  ⟨hp, rfl, rfl, engineBounded_resetIn p, rfl, resultsCoherent_resetIn p, rfl, Nat.zero_lt_one⟩

theorem reference_wf : Config.reference.wf = true := by decide

/-! ### The registers and the buffers after the release (70_reset_and_hazards.md R250, R251) -/

theorem statusWord_leaveReset (s : State) : s.leaveReset.statusWord = 0 :=
  BitVec.eq_of_toNat_eq (statusWord_toNat _)

theorem ctrlWord_leaveReset (s : State) : s.leaveReset.ctrlWord = 0 :=
  ctrlWord_eq_ite _

theorem read?_mem_leaveReset (s : State) (a : Nat) : Memory.read? s.leaveReset.mem a = none := rfl

end Sys2Proof.ResetEdges

namespace Sys2Proof

open Machine ResetEdges CommandWords Exceptions

/-- Settles O37: State.reset is the state after reset in the reference configuration, which is legal. -/
theorem resetHasInvariant : Obligations.ResetHasInvariant := by
  unfold Obligations.ResetHasInvariant
  exact ⟨inv_resetIn reference_wf, fun _ => inv_resetIn⟩

/-- Settles O38: the release edge is `State.leaveReset` whatever the state before; STATUS and CTRL are read
from the cleared flags, and the capacities from the configuration, which reset keeps. -/
theorem releaseOfResetLeavesTheResetValues : Obligations.ReleaseOfResetLeavesTheResetValues := by
  unfold Obligations.ReleaseOfResetLeavesTheResetValues
  refine ⟨fun s rest hp => ⟨(s.withPort rest).leaveReset, step_resetRelease hp, ?_⟩,
    fun _ _ _ => step_txn_duringReset⟩
  have hctrl := ctrlWord_leaveReset (s.withPort rest)
  have hstatus := statusWord_leaveReset (s.withPort rest)
  have hbuffers := read?_mem_leaveReset (s.withPort rest)
  exact ⟨rfl, rfl, rfl, hctrl, rfl, rfl, rfl, rfl, rfl, hstatus, rfl, rfl, rfl, rfl, hbuffers,
    irq_of_not_done rfl, rfl, rfl⟩

/-- Settles O39: BUSY and DONE fall at the assertion and stay 0 through the release, so neither the engine
nor irq has anything left of the command. -/
theorem resetAbandonsARunningCommand : Obligations.ResetAbandonsARunningCommand := by
  unfold Obligations.ResetAbandonsARunningCommand
  intro s rest _ hp
  have hassert := step_resetAssert hp
  have hport : (s.withPort (.resetRelease :: rest)).enterReset.port = .resetRelease :: rest := rfl
  exact ⟨_, _, hassert, step_resetRelease hport, rfl, rfl, irq_of_not_done rfl, rfl, rfl, irq_of_not_done rfl,
    engineTurn_idle rfl, read?_mem_leaveReset _⟩

end Sys2Proof
end
